-- ==== Sys2Proof/Word.lean ====
section
/-! DEFINITION. The word types of the hardware (spec 00 R6, R8, R9): every value is unsigned, bit 0 is the
least significant bit. Arithmetic that wraps is the BitVec's own. -/

namespace Sys2Proof

/-- An 8-bit value: a general register, a timer, a byte of memory (00 R6 `XLEN`). -/
abbrev Byte := BitVec 8

/-- A 16-bit value: I, PC, a stack entry, an instruction word (00 R6 `ALEN`, `ILEN`). -/
abbrev Word := BitVec 16

/-- A 4-bit register index, the fields x and y (30 R93, R94). -/
abbrev Reg := BitVec 4

/-- A 4-bit nibble operand, the field n (30 R94). -/
abbrev Nibble := BitVec 4

/-- A 12-bit address operand, the field nnn (30 R92). -/
abbrev Addr12 := BitVec 12

end Sys2Proof
end

