-- ==== Sys2Proof/Config.lean ====
section
/-! DEFINITION. What one machine fixes: the sizes the document states (00 R6), which are no parameters, and the two
values the spec leaves free, as opaque constants nothing can evaluate. The parameters of 00 R7 that the spec
gives a value stand in Machine/Params.lean. -/

namespace Sys2Proof

/-- `NREGS` (00 R6). -/
abbrev Config.nregs : Nat := 16
/-- `MEMSIZE` (00 R6): bytes of memory. -/
abbrev Config.memSize : Nat := 4096
/-- `LOADBASE` (00 R6): first byte of the loaded program and reset value of PC. -/
abbrev Config.loadBase : Nat := 0x200
/-- `ROMMAX` (00 R6): longest ROM image in bytes. -/
abbrev Config.romMax : Nat := 3584
/-- `STACKCAP` (00 R6): stack entries. -/
abbrev Config.stackCap : Nat := 16
/-- `WIDTH` (00 R6): framebuffer columns. -/
abbrev Config.width : Nat := 64
/-- `HEIGHT` (00 R6): framebuffer rows. -/
abbrev Config.height : Nat := 32
/-- `GLYPHSIZE` (00 R6): bytes per built-in glyph. -/
abbrev Config.glyphSize : Nat := 5
/-- `NKEYS` (00 R6). -/
abbrev Config.nkeys : Nat := 16
/-- `TICKHZ` (00 R6): nominal timer rate, and the lower bound of RATE (10 R48). -/
abbrev Config.tickHz : Nat := 60

/-- The random source `RAND` (00 R7, 42 R182, 60 R290, U7): the n-th byte drawn since the machine was created. A FREE
VALUE: no generator, no distribution, no relation between draws. Log entry 6. -/
opaque Config.rand : Nat → Byte

/-- Whether the stop wins over the key when `Resume` finds both (40 R129: "either branch may be taken"), at the n-th
such choice. A FREE VALUE. Log entry 7. -/
opaque Config.stopWins : Nat → Bool

end Sys2Proof
end

