-- ==== Sys2Proof/Machine/Params.lean ====
section
/-! DEFINITION. The parameters of 00 R7 at the values the spec takes for them, each named after its parameter so that a later
finding changes one place ("a model may hard-wire the value taken; it must name the parameter where it does"). -/

namespace Sys2Proof.Machine

/-- The values of `SYS_EFFECT` (00 R7, decision D6). -/
inductive SysEffect where
  | nop
  | fault
deriving DecidableEq, Repr

/-- The values of `OOR_POLICY` (00 R7, decision D4). -/
inductive OorPolicy where
  | fault
  | alias12
deriving DecidableEq, Repr

/-- The values of `VF_ORDER` (00 R7, decision D10). -/
inductive VfOrder where
  | flagThenResult
  | resultThenFlag
deriving DecidableEq, Repr

/-- The values of `KEY_HIGH` (00 R7, decision D15) that give the key test a meaning; `refuse` is left out. -/
inductive KeyHigh where
  | false
  | low4
deriving DecidableEq, Repr

/-- `SYS_EFFECT`: what shape SYS does. Log entry 9. -/
def Params.sysEffect : SysEffect := .nop

/-- `OOR_POLICY`: an access to an address of 0x1000 or more. Log entry 10. -/
def Params.oorPolicy : OorPolicy := .fault

/-- `SUB_EQ_FLAG`: VF after SUB or SUBN with equal operands. Log entry 11. -/
def Params.subEqFlag : Bool := false

/-- `VF_ORDER`: which write wins when x = 15 in a flag-writing ALU shape. Log entry 12. -/
def Params.vfOrder : VfOrder := .flagThenResult

/-- `KEY_HIGH`: the key test with an index of 16 or more. Log entry 13. -/
def Params.keyHigh : KeyHigh := .false

/-- `RATE` at creation (00 R7, 70 R301). -/
def Params.rate : Nat := 500

/-- The quotient `REFRESH = RATE div 60` (10 R48, decision D16). Log entry 14. -/
def refreshOf (rate : Nat) : Nat := rate / Config.tickHz

/-- `RESET_REGS = zero`: the reset value of a general register and of a timer (10 R51, decision D1). Log entry 1. -/
def Params.resetByte : Byte := 0

/-- `RESET_REGS = zero`: the reset value of I (10 R51, decision D1). Log entry 1. -/
def Params.resetI : Word := 0

/-- The reset value of a stack slot (10 R51, decision D5). Log entry 2. -/
def Params.resetSlot : Word := 0

/-- `GLYPHS`: the 80 bytes of the 16 glyphs, glyph d at `d × 5` (10 R41, decision D3). Log entry 3. -/
def Params.glyphs : List Byte :=
  [0xF0, 0x90, 0x90, 0x90, 0xF0] ++ [0x20, 0x60, 0x20, 0x20, 0x70] ++
  [0xF0, 0x10, 0xF0, 0x80, 0xF0] ++ [0xF0, 0x10, 0xF0, 0x10, 0xF0] ++
  [0x90, 0x90, 0xF0, 0x10, 0x10] ++ [0xF0, 0x80, 0xF0, 0x10, 0xF0] ++
  [0xF0, 0x80, 0xF0, 0x90, 0xF0] ++ [0xF0, 0x10, 0x20, 0x40, 0x40] ++
  [0xF0, 0x90, 0xF0, 0x90, 0xF0] ++ [0xF0, 0x90, 0xF0, 0x10, 0xF0] ++
  [0xF0, 0x90, 0xF0, 0x90, 0x90] ++ [0xE0, 0x90, 0xE0, 0x90, 0xE0] ++
  [0xF0, 0x80, 0x80, 0x80, 0xF0] ++ [0xE0, 0x90, 0x90, 0x90, 0xE0] ++
  [0xF0, 0x80, 0xF0, 0x80, 0xF0] ++ [0xF0, 0x80, 0xF0, 0x80, 0x80]

/-- What a byte of memory holds after reset, so what an unlisted address reads as (10 R51): the glyph table at 0x000 to
0x04F, 0 in 0x050 to 0x1FF (decision D2, log entry 2) and in the program region. -/
def resetMemByte (a : Nat) : Byte := Params.glyphs.getD a 0

end Sys2Proof.Machine
end

