-- ==== Sys2Proof/Machine/State.lean ====
section
/-! DEFINITION. The state of the core (10 R20, the complete list) as plain data, what the host may send and what the core emits
(60 R280), the reasons a step can stop, and the state of a machine just created (70 R301). -/

namespace Sys2Proof.Machine

/-- Memory as (address, byte) pairs, addresses strictly rising, no entry equal to the reset content of its address (see
`Memory.wf`); an unlisted address reads as `resetMemByte`. -/
abbrev Memory := List Host.Cell

/-- The pixel grid: 32 rows of 64 pixels, one bit each, column 0 in the most significant bit of a row (10 R37, R38). -/
abbrev Grid := Vector (BitVec 64) 32

/-- RUN (10 R45, 40 R120). -/
inductive Run where
  /-- The machine exists, no run is in progress. -/
  | idle
  | running
  /-- `LD_VX_K` with destination x is suspended. -/
  | waitKey (x : Reg)
  /-- The run is over; only the cleanup follows. -/
  | halted
deriving DecidableEq, Repr

/-- ERR, the causes of 60 R261 in the order of their codes 0 to 5. -/
inductive Err where
  | none
  | stop
  | unknownInstruction
  | stackOverflow
  | stackUnderflow
  | addressOutOfRange
deriving DecidableEq, Repr

/-- The code of a cause (60 R261). -/
def Err.code : Err → Nat
  | .none => 0
  | .stop => 1
  | .unknownInstruction => 2
  | .stackOverflow => 3
  | .stackUnderflow => 4
  | .addressOutOfRange => 5

/-- A snapshot: the tuple of the fields of 60 R288, in its order. Lists of any length, so that a truncated blob is one too
(60 R289). Log entry 18. -/
structure Blob where
  v : List Byte
  i : Word
  dt : Byte
  st : Byte
  stack : List Word
  sp : Nat
  pc : Word
  mem : List Byte
  pixels : List Byte
  coll : Bool
deriving DecidableEq, Repr

/-- The events the host sends (60 R280). -/
inductive HostEvent where
  | reset
  | loadRom (bytes : List Byte)
  /-- `none` stands for bytes in which a field of the blob is missing (60 R289). -/
  | restore (blob : Option Blob)
  | start
  /-- The index is any number, since a host can err; the core's behaviour is defined for 0 to 15 (60 R282). -/
  | keyDown (k : Nat)
  | keyUp (k : Nat)
  | stop
  | requestSave
  | setRate (r : Nat)
deriving DecidableEq, Repr

/-- Whose step is next: the core's, or the host's with one event (40 R121, R128). -/
inductive Turn where
  | core
  | host (e : HostEvent)
deriving DecidableEq, Repr

/-- What the core emits (60 R280, the rows "out" that are events). -/
inductive Output where
  /-- `Repaint`, with the pixel grid as the presentation layer reads it at the tick (40 R126). -/
  | repaint (fb : Grid)
  /-- `Snapshot`, at a cycle boundary with SAVEREQ = 1 (60 R288). -/
  | snapshot (b : Blob)
  /-- `RunEnded(ERR, ERRWORD)`, at the cleanup (60 R269, R291). -/
  | runEnded (err : Err) (errWord : Word)
  /-- The negative answer to `LoadRom` (60 R273). -/
  | romTooLarge
  /-- The negative answer to `Restore` (60 R273). -/
  | invalidSaveFile
deriving DecidableEq, Repr

/-- What stops the model's machine in a state the spec rules out. The spec's own fatal errors are no faults of the model: they
are next states with RUN = Halted (60 R266). -/
inductive Fault where
  /-- Raised by `RET` when SP is above 16, so that the top slot does not exist. 10 R32 rules such a state out and no step from a
  state with SP at most 16 reaches one. SAFE: the model stops. Log entry 8. -/
  | stackPointerOutOfRange
deriving DecidableEq, Repr

/-- What the model gives no meaning. -/
inductive Refusal where
  /-- Raised by `exec` for an instruction without a meaning, by its mnemonic. SAFE: the model stops. -/
  | notModelled (mnemonic : String)
  /-- Raised by a host event in a run state in which 60 R280 does not allow it (U18). SAFE: the model stops. -/
  | eventNotEnabled
  /-- Raised by `KeyDown` and `KeyUp` with an index above 15: "the model refuses such an event" (60 R282, U16). SAFE. -/
  | keyIndexOutOfRange
  /-- Raised by `SetRate` with a rate below 60, for which REFRESH would be 0: no meaning (60 R286, U8). SAFE. -/
  | rateBelowMinimum
deriving DecidableEq, Repr

/-- The state of the core: every element of 10 R20, and four fields of the model's own. -/
@[ext]
structure State where
  /-- V[0..15], the general registers; V[15] is VF (10 R21, R22). -/
  v : Vector Byte 16
  /-- The address register I (10 R24). -/
  i : Word
  /-- The program counter (10 R25). -/
  pc : Word
  /-- The delay timer (10 R28). -/
  dt : Byte
  /-- The sound timer (10 R29). -/
  st : Byte
  /-- STACK[0..15], the return addresses (10 R31). -/
  stack : Vector Word 16
  /-- SP, the number of entries on the stack, 0 to 16 (10 R31, R32). -/
  sp : Nat
  /-- MEM[0..4095] (10 R36, 20 R60). -/
  mem : Memory
  /-- FB, the pixel grid (10 R37). -/
  fb : Grid
  /-- COLL, the collision flag of the framebuffer (10 R39). -/
  coll : Bool
  /-- REPAINT, the repaint-pending flag (10 R40). -/
  repaint : Bool
  /-- KEYS, the held-keys mask, bit k for key k (10 R42). -/
  keys : BitVec 16
  /-- LASTKEY, the last key that went down (10 R43). -/
  lastKey : BitVec 4
  /-- KEYWAKE, a key went down since the wait began (10 R44). -/
  keyWake : Bool
  /-- RUN, the state of the execution engine (10 R45). -/
  run : Run
  /-- ERR, the cause of the last halt (10 R46). -/
  err : Err
  /-- ERRWORD, its 16 bits of detail (10 R46). -/
  errWord : Word
  /-- CYC, cycles completed since the last tick (10 R47). -/
  cyc : Nat
  /-- RATE, instructions per second (10 R48). -/
  rate : Nat
  /-- REFRESH, cycles per timer tick (10 R48). -/
  refresh : Nat
  /-- STOPREQ, a latched stop request (10 R49). -/
  stopReq : Bool
  /-- SAVEREQ, a latched save request (10 R49). -/
  saveReq : Bool
  /-- The MODEL's own: who moves next, the host's event schedule of 10 R52. Log entry 4. -/
  schedule : List Turn
  /-- The MODEL's own: the outputs emitted so far, newest first (60 R280). Log entry 5. -/
  emitted : List Output
  /-- The MODEL's own: bytes drawn from RAND so far (42 R182). Log entry 6. -/
  draws : Nat
  /-- The MODEL's own: stop-or-key choices made so far (40 R129). Log entry 7. -/
  choices : Nat
deriving DecidableEq, Repr

/-! ## Updates, one field each -/

/-- Write `v`. -/
def State.withV (s : State) (a : Vector Byte 16) : State := { s with v := a }
/-- Write `i`. -/
def State.withI (s : State) (a : Word) : State := { s with i := a }
/-- Write `pc`. -/
def State.withPc (s : State) (a : Word) : State := { s with pc := a }
/-- Write `dt`. -/
def State.withDt (s : State) (a : Byte) : State := { s with dt := a }
/-- Write `st`. -/
def State.withSt (s : State) (a : Byte) : State := { s with st := a }
/-- Write `stack`. -/
def State.withStack (s : State) (a : Vector Word 16) : State := { s with stack := a }
/-- Write `sp`. -/
def State.withSp (s : State) (a : Nat) : State := { s with sp := a }
/-- Write `mem`. -/
def State.withMem (s : State) (a : Memory) : State := { s with mem := a }
/-- Write `fb`. -/
def State.withFb (s : State) (a : Grid) : State := { s with fb := a }
/-- Write `coll`. -/
def State.withColl (s : State) (a : Bool) : State := { s with coll := a }
/-- Write `repaint`. -/
def State.withRepaint (s : State) (a : Bool) : State := { s with repaint := a }
/-- Write `keys`. -/
def State.withKeys (s : State) (a : BitVec 16) : State := { s with keys := a }
/-- Write `lastKey`. -/
def State.withLastKey (s : State) (a : BitVec 4) : State := { s with lastKey := a }
/-- Write `keyWake`. -/
def State.withKeyWake (s : State) (a : Bool) : State := { s with keyWake := a }
/-- Write `run`. -/
def State.withRun (s : State) (a : Run) : State := { s with run := a }
/-- Write `err`. -/
def State.withErr (s : State) (a : Err) : State := { s with err := a }
/-- Write `errWord`. -/
def State.withErrWord (s : State) (a : Word) : State := { s with errWord := a }
/-- Write `cyc`. -/
def State.withCyc (s : State) (a : Nat) : State := { s with cyc := a }
/-- Write `rate`. -/
def State.withRate (s : State) (a : Nat) : State := { s with rate := a }
/-- Write `refresh`. -/
def State.withRefresh (s : State) (a : Nat) : State := { s with refresh := a }
/-- Write `stopReq`. -/
def State.withStopReq (s : State) (a : Bool) : State := { s with stopReq := a }
/-- Write `saveReq`. -/
def State.withSaveReq (s : State) (a : Bool) : State := { s with saveReq := a }
/-- Write `schedule`. -/
def State.withSchedule (s : State) (a : List Turn) : State := { s with schedule := a }
/-- Write `emitted`. -/
def State.withEmitted (s : State) (a : List Output) : State := { s with emitted := a }
/-- Write `draws`. -/
def State.withDraws (s : State) (a : Nat) : State := { s with draws := a }
/-- Write `choices`. -/
def State.withChoices (s : State) (a : Nat) : State := { s with choices := a }

/-- A machine that has just been created: the state after `Reset` (10 R51) and RATE = 500, REFRESH = 8, ERR = None, ERRWORD = 0
(70 R301). Memory lists nothing, so every byte is at its reset content. -/
def State.reset : State where
  v := Vector.replicate 16 Params.resetByte
  i := Params.resetI
  pc := BitVec.ofNat 16 Config.loadBase
  dt := Params.resetByte
  st := Params.resetByte
  stack := Vector.replicate 16 Params.resetSlot
  sp := 0
  mem := []
  fb := Vector.replicate 32 0
  coll := false
  repaint := false
  keys := 0
  lastKey := 0
  keyWake := false
  run := .idle
  err := .none
  errWord := 0
  cyc := 0
  rate := Params.rate
  refresh := refreshOf Params.rate
  stopReq := false
  saveReq := false
  schedule := []
  emitted := []
  draws := 0
  choices := 0

end Sys2Proof.Machine
end

