-- ==== Sys2Proof/Machine/Ops.lean ====
section
/-! DEFINITION. The named operations every meaning is built from: memory (20 R63 to R66), the register file (10 R21), the call
stack (10 R33 to R35), raising a fatal error (60 R266), skipping (41 R159), the key test (45 R247) and emitting an output. -/

namespace Sys2Proof.Machine

/-! ## Memory as data -/

/-- The byte at an address; an unlisted one is at its reset content. -/
def Memory.read : Memory → Nat → Byte
  | [], a => resetMemByte a
  | (b, w) :: m, a => if a = b then w else Memory.read m a

/-- Put a byte in front of cells at higher addresses, unless it is the reset content. -/
def Memory.cons (a : Nat) (v : Byte) (m : Memory) : Memory := if v = resetMemByte a then m else (a, v) :: m

/-- Write one byte, keeping the canonical form: writing the reset content removes the entry. -/
def Memory.write : Memory → Nat → Byte → Memory
  | [], a, v => Memory.cons a v []
  | (b, w) :: m, a, v =>
    if a < b then Memory.cons a v ((b, w) :: m)
    else if a = b then Memory.cons a v m
    else (b, w) :: Memory.write m a v

/-- The canonical form: addresses strictly rising and inside the 4096 bytes, no entry at its reset content. -/
abbrev Memory.wf (m : Memory) : Prop :=
  m.Pairwise (fun c d => c.1 < d.1) ∧ ∀ c ∈ m, c.1 < Config.memSize ∧ c.2 ≠ resetMemByte c.1

/-- Write consecutive bytes from an address upward: the copy of `LoadRom` and of a restore (20 R72, 60 R289). -/
def Memory.writeAll (a : Nat) : List Byte → Memory → Memory
  | [], m => m
  | b :: bs, m => Memory.writeAll (a + 1) bs (m.write a b)

/-! ## Fatal errors -/

/-- `raise E(info)`, and `Halt(cause)` of 40 R131 with the detail of 60 R261: RUN, ERR and ERRWORD are written, nothing is saved
and control goes nowhere (60 R266). This is the one way into Halted. -/
def raise (e : Err) (info : Word) (s : State) : State := ((s.withRun .halted).withErr e).withErrWord info

/-- `Halt(Stop)`: ERRWORD is 0 for Stop (10 R46, 40 R131). -/
def haltStop (s : State) : State := raise .stop 0 s

/-! ## Memory access -/

/-- The cell a 16-bit address names, or none above 0x0FFF (20 R65), by `OOR_POLICY`. -/
def cellOf (a : Word) : Option Nat :=
  match Params.oorPolicy with
  | .fault => if a.toNat < Config.memSize then some a.toNat else none
  | .alias12 => some (a.toNat % Config.memSize)

/-- `MemRead(addr, 1)` (20 R63); the error is the offending address of AddressOutOfRange. -/
def memRead (a : Word) (s : State) : Except Word Byte :=
  match cellOf a with
  | some k => .ok (s.mem.read k)
  | none => .error a

/-- `MemWrite(addr, 1, v)` (20 R64). -/
def memWrite (a : Word) (v : Byte) (s : State) : Except Word State :=
  match cellOf a with
  | some k => .ok (s.withMem (s.mem.write k v))
  | none => .error a

/-- The outcome of a sequence of accesses: all done, or the offending address and the state after the accesses that precede it,
which stand (60 R265). -/
abbrev Access := Except (Word × State) State

/-- End an instruction after its accesses: `AddressOutOfRange` if one failed (60 R265). -/
def finish : Access → Host.Outcome State Fault Refusal
  | .ok s => .next s
  | .error (a, s) => .next (raise .addressOutOfRange a s)

/-! ## Registers -/

/-- VF, which is V[15] (10 R22). -/
def vf : Reg := 15

/-- `V[x]`. -/
def State.reg (s : State) (x : Reg) : Byte := s.v[x.toNat]'x.isLt

/-- `V[x] <- b`. -/
def State.setReg (s : State) (x : Reg) (b : Byte) : State := s.withV (s.v.set x.toNat b x.isLt)

/-! ## The call stack -/

/-- `Push(a)` (10 R33); `none` is StackOverflow, which changes nothing. -/
def push (a : Word) (s : State) : Option State :=
  if h : s.sp < 16 then some ((s.withStack (s.stack.set s.sp a h)).withSp (s.sp + 1)) else none

/-- Why a pop gives no address. -/
inductive PopError where
  /-- StackUnderflow (10 R34). -/
  | underflow
  /-- SP above 16, a state 10 R32 rules out. Log entry 8. -/
  | outOfRange
deriving DecidableEq, Repr

/-- `Peek()` (10 R35): the newest address, nothing changed. No instruction uses it by itself. -/
def peek (s : State) : Except PopError Word :=
  if s.sp = 0 then .error .underflow
  else if h : s.sp - 1 < 16 then .ok (s.stack[s.sp - 1]'h)
  else .error .outOfRange

/-- `Pop()` (10 R34): the slot keeps its value. -/
def pop (s : State) : Except PopError (Word × State) :=
  match peek s with
  | .ok a => .ok (a, s.withSp (s.sp - 1))
  | .error e => .error e

/-! ## Skip, key test, random byte, output -/

/-- `Skip()` (41 R159): 2 more on the PC, 16-bit wrap. -/
def skip (s : State) : State := s.withPc (s.pc + 2)

/-- Skip when the condition holds. -/
def skipIf (c : Bool) (s : State) : State := if c then skip s else s

/-- `isPressed(k)` (45 R247), by `KEY_HIGH` for k above 15. -/
def isPressed (k : Byte) (s : State) : Bool :=
  match Params.keyHigh with
  | .false => s.keys.getLsbD k.toNat
  | .low4 => s.keys.getLsbD (k.toNat % Config.nkeys)

/-- `draw RAND` (00 R10): one byte of the random source, which the model numbers. Log entry 6. -/
def drawRand (s : State) : Byte × State := (Config.rand s.draws, s.withDraws (s.draws + 1))

/-- Emit an output (60 R280). -/
def emit (o : Output) (s : State) : State := s.withEmitted (o :: s.emitted)

end Sys2Proof.Machine
end

