-- ==== Sys2Proof/Machine/Flags.lean ====
section
/-! DEFINITION. The flag computations of the five flag-writing ALU shapes (42 R176, R184) and the order in which flag and
result are written (42 R183). The sixth flag, the collision of a draw, is in Framebuffer.lean. -/

namespace Sys2Proof.Machine

/-- `trunc8(n)` (00 R9). -/
def trunc8 (n : Nat) : Byte := BitVec.ofNat 8 n

/-- A flag as VF holds it: exactly 0x00 or 0x01 (42 R176). -/
def flagByte (f : Bool) : Byte := if f then 1 else 0

/-- The carry of an addition: the 9-bit sum is above 255 (42 R177). -/
def carryFlag (a b : Byte) : Bool := decide (a.toNat + b.toNat > 255)

/-- The not-borrow flag of `a − b`: the strict comparison, equal operands by `SUB_EQ_FLAG` (42 R178). -/
def notBorrowFlag (a b : Byte) : Bool := if a = b then Params.subEqFlag else decide (a.toNat > b.toNat)

/-- The bit a right shift by one shifts out (42 R179). -/
def lowBit (a : Byte) : Bool := a.getLsbD 0

/-- The bit a left shift by one shifts out (42 R181). -/
def highBit (a : Byte) : Bool := a.getLsbD 7

/-- Write flag and result of a flag-writing ALU shape, by `VF_ORDER` (42 R183): with x = 15 the later write wins. -/
def setFlagged (x : Reg) (result : Byte) (flag : Bool) (s : State) : State :=
  match Params.vfOrder with
  | .flagThenResult => (s.setReg vf (flagByte flag)).setReg x result
  | .resultThenFlag => (s.setReg x result).setReg vf (flagByte flag)

end Sys2Proof.Machine
end

