-- ==== Sys2Proof/Machine/Alu.lean ====
section
/-! DEFINITION. Register moves, arithmetic, logic, shifts and the random byte (42_alu.md). Both operands are read before anything
is written (00 R12, 42 R183). None of these can raise an error. -/

namespace Sys2Proof.Machine

/-- LD_VX_BYTE (42 R170). -/
def execLdVxByte (x : Reg) (kk : Byte) (s : State) : Host.Outcome State Fault Refusal :=
  .next (s.setReg x kk)

/-- ADD_VX_BYTE (42 R171): VF is not written, even when the sum exceeds 255. -/
def execAddVxByte (x : Reg) (kk : Byte) (s : State) : Host.Outcome State Fault Refusal :=
  .next (s.setReg x (trunc8 ((s.reg x).toNat + kk.toNat)))

/-- LD_VX_VY (42 R172). -/
def execLdVxVy (x y : Reg) (s : State) : Host.Outcome State Fault Refusal :=
  .next (s.setReg x (s.reg y))

/-- OR_VX_VY (42 R173): VF unchanged. -/
def execOrVxVy (x y : Reg) (s : State) : Host.Outcome State Fault Refusal :=
  .next (s.setReg x (s.reg x ||| s.reg y))

/-- AND_VX_VY (42 R174): VF unchanged. -/
def execAndVxVy (x y : Reg) (s : State) : Host.Outcome State Fault Refusal :=
  .next (s.setReg x (s.reg x &&& s.reg y))

/-- XOR_VX_VY (42 R175): VF unchanged. -/
def execXorVxVy (x y : Reg) (s : State) : Host.Outcome State Fault Refusal :=
  .next (s.setReg x (s.reg x ^^^ s.reg y))

/-- ADD_VX_VY (42 R177): the carry of the 9-bit sum, and the sum truncated. -/
def execAddVxVy (x y : Reg) (s : State) : Host.Outcome State Fault Refusal :=
  .next (setFlagged x (trunc8 ((s.reg x).toNat + (s.reg y).toNat)) (carryFlag (s.reg x) (s.reg y)) s)

/-- SUB_VX_VY (42 R178): `V[x] − V[y]`, wrapped. -/
def execSubVxVy (x y : Reg) (s : State) : Host.Outcome State Fault Refusal :=
  .next (setFlagged x (s.reg x - s.reg y) (notBorrowFlag (s.reg x) (s.reg y)) s)

/-- SHR_VX_VY (42 R179): V[x] in place; `y` is decoded and ignored (30 R105). -/
def execShrVxVy (x _y : Reg) (s : State) : Host.Outcome State Fault Refusal :=
  .next (setFlagged x (s.reg x >>> 1) (lowBit (s.reg x)) s)

/-- SUBN_VX_VY (42 R180): `V[y] − V[x]`, wrapped, into V[x]. -/
def execSubnVxVy (x y : Reg) (s : State) : Host.Outcome State Fault Refusal :=
  .next (setFlagged x (s.reg y - s.reg x) (notBorrowFlag (s.reg y) (s.reg x)) s)

/-- SHL_VX_VY (42 R181): V[x] in place; `y` is decoded and ignored (30 R105). -/
def execShlVxVy (x _y : Reg) (s : State) : Host.Outcome State Fault Refusal :=
  .next (setFlagged x (s.reg x <<< 1) (highBit (s.reg x)) s)

/-- RND_VX (42 R182): a fresh random byte, masked. Log entry 6. -/
def execRndVx (x : Reg) (kk : Byte) (s : State) : Host.Outcome State Fault Refusal :=
  .next ((drawRand s).2.setReg x ((drawRand s).1 &&& kk))

end Sys2Proof.Machine
end

