-- ==== Sys2Proof/Machine/Operands.lean ====
section
/-! DEFINITION. The operand forms: zero-extended immediates (30 R96), the one addressing mode, I with an ascending offset (44
R225), register ranges, decimal digits, and the loops of byte accesses over them (20 R69: ascending order). -/

namespace Sys2Proof.Machine

/-- `zext_16(nnn)`: a 12-bit address as a 16-bit value (30 R92). -/
def zextAddr (nnn : Addr12) : Word := nnn.setWidth 16

/-- `zext_16(V[x])`: a byte in address arithmetic (41 R158, 44 R221). -/
def zextByte (b : Byte) : Word := b.setWidth 16

/-- `trunc16(I + k)`: the address of the k-th byte of an access (44 R225, 20 R71). -/
def effAddr (s : State) (k : Nat) : Word := s.i + BitVec.ofNat 16 k

/-- The register with number k, for k in 0 to 15. -/
def regOf (k : Nat) : Reg := BitVec.ofNat 4 k

/-- `0 .. x`, inclusive: the registers of a dump or a load (44 R223, R224). -/
def upTo (x : Reg) : List Nat := List.range (x.toNat + 1)

/-- Hundreds, tens and ones of a byte, each in a byte of its own (44 R222). -/
def bcdDigits (v : Byte) : List Byte :=
  [BitVec.ofNat 8 (v.toNat / 100), BitVec.ofNat 8 (v.toNat / 10 % 10), BitVec.ofNat 8 (v.toNat % 10)]

/-- `V[0..x]`, V[0] first: the bytes of a register dump (44 R223). -/
def dumpBytes (x : Reg) (s : State) : List Byte := (upTo x).map (fun k => s.reg (regOf k))

/-- Store bytes at the k-th byte of the access and upward, up to the first address out of range. -/
def storeBytes (k : Nat) : List Byte → State → Access
  | [], s => .ok s
  | b :: bs, s =>
    match memWrite (effAddr s k) b s with
    | .ok s' => storeBytes (k + 1) bs s'
    | .error a => .error (a, s)

/-- Load the listed registers, register k from the k-th byte of the access, up to the first address out of range. -/
def loadRegs : List Nat → State → Access
  | [], s => .ok s
  | k :: ks, s =>
    match memRead (effAddr s k) s with
    | .ok b => loadRegs ks (s.setReg (regOf k) b)
    | .error a => .error (a, s)

end Sys2Proof.Machine
end

