-- ==== Sys2Proof/Machine/Framebuffer.lean ====
section
/-! DEFINITION. The framebuffer: pixels, `FbClear` (43 R201), `drawByte` (R202) with wrapping (R205) and collision (R206), the
rows of a sprite, and the packed view the presentation layer and a snapshot see (10 R38). -/

namespace Sys2Proof.Machine

/-- The row a pixel's y lies in, modulo 32 (43 R205). -/
def Grid.row (g : Grid) (y : Nat) : BitVec 64 := g[y % 32]'(Nat.mod_lt _ (by decide))

/-- `FB[y mod 32][x mod 64]`. -/
def Grid.pixel (g : Grid) (x y : Nat) : Bool := (g.row y).getMsbD (x % 64)

/-- The row with one pixel written. -/
def setColumn (r : BitVec 64) (c : Nat) (b : Bool) : BitVec 64 :=
  if b then r ||| (1#64 <<< (63 - c)) else r &&& ~~~(1#64 <<< (63 - c))

/-- `FB[y mod 32][x mod 64] <- b`. -/
def Grid.setPixel (g : Grid) (x y : Nat) (b : Bool) : Grid :=
  g.set (y % 32) (setColumn (g.row y) (x % 64) b) (Nat.mod_lt _ (by decide))

/-- `FbClear()` (43 R201): pixels, collision flag and repaint-pending flag. -/
def fbClear (s : State) : State := ((s.withFb (Vector.replicate 32 0)).withColl false).withRepaint false

/-- One pixel of `drawByte`: a lit pixel under a sprite bit 1 is a collision, which is sticky; the new pixel is the exclusive
or (43 R202, R206). -/
def drawPixel (x y : Nat) (bit : Bool) (s : State) : State :=
  (s.withColl (s.coll || (s.fb.pixel x y && bit))).withFb (s.fb.setPixel x y (s.fb.pixel x y ^^ bit))

/-- The pixels j of one sprite row, most significant bit first, each column wrapping on its own (43 R202). -/
def drawBits (x y : Nat) (b : Byte) : List Nat → State → State
  | [], s => s
  | j :: js, s => drawBits x y b js (drawPixel (x + j) y (b.getMsbD j) s)

/-- `drawByte(x, y, b)` (43 R202): REPAINT is set by every call. -/
def drawByte (x y : Nat) (b : Byte) (s : State) : State := (drawBits x y b (List.range 8) s).withRepaint true

/-- The listed rows of a sprite at (vx, vy): row r is the byte at I + r, up to the first address out of range (43 R203). -/
def drawRows (vx vy : Nat) : List Nat → State → Access
  | [], s => .ok s
  | r :: rs, s =>
    match memRead (effAddr s r) s with
    | .ok b => drawRows vx vy rs (drawByte vx (vy + r) b s)
    | .error a => .error (a, s)

/-- Byte k of the packed pixel grid: pixel (x, y) is bit 7 − (x mod 8) of byte y × 8 + (x div 8) (10 R38). -/
def Grid.packedByte (g : Grid) (k : Nat) : Byte := (g.row (k / 8)).extractLsb' (56 - 8 * (k % 8)) 8

/-- The 256 bytes of the packed pixel grid (10 R38). -/
def Grid.packed (g : Grid) : List Byte := (List.range 256).map g.packedByte

/-- A row from its eight packed bytes. -/
def rowOfBytes (bs : List Byte) : BitVec 64 := bs.foldl (fun r b => (r <<< 8) ||| b.setWidth 64) 0

/-- The grid whose packed view is the given bytes. -/
def Grid.ofPacked (bs : List Byte) : Grid := Vector.ofFn (fun y => rowOfBytes ((bs.drop (8 * y.val)).take 8))

/-- The read-only view the presentation layer has of the pixels (60 R287). -/
def pixelView (s : State) : List Byte := s.fb.packed

/-- The output `SOUND = (ST ≠ 0)` (10 R29, decision D24). -/
def sound (s : State) : Bool := s.st != 0

end Sys2Proof.Machine
end

