-- ==== Sys2Proof/Machine/Display.lean ====
section
/-! DEFINITION. The framebuffer instructions (43_display.md). -/

namespace Sys2Proof.Machine

/-- CLS (43 R200): `FbClear()` and nothing more. -/
def execCls (s : State) : Host.Outcome State Fault Refusal := .next (fbClear s)

/-- DRW_VX_VY_N (43 R203): COLL is cleared, the n rows are drawn from MEM[I ..], and after the last one VF is COLL. A row out of
range raises AddressOutOfRange with the rows before it drawn and VF not written. -/
def execDrwVxVyN (x y : Reg) (n : Nibble) (s : State) : Host.Outcome State Fault Refusal :=
  match drawRows (s.reg x).toNat (s.reg y).toNat (List.range n.toNat) (s.withColl false) with
  | .ok s' => .next (s'.setReg vf (flagByte s'.coll))
  | .error e => finish (.error e)

/-- LD_F_VX (43 R204): `I <- trunc16(V[x] × 5)`, the whole byte. -/
def execLdFVx (x : Reg) (s : State) : Host.Outcome State Fault Refusal :=
  .next (s.withI (BitVec.ofNat 16 ((s.reg x).toNat * Config.glyphSize)))

end Sys2Proof.Machine
end

