-- ==== Sys2Proof/Syntax.lean ====
section
/-! DEFINITION. The instructions: one constructor per row of spec/opcode_table.json, in its order (30 R101). An
operand keeps the width of its field (30 R92 to R95), so only SYS_ADDR has values no word stands for (see WellFormed). -/

namespace Sys2Proof

/-- The 35 instruction shapes (30 R101). Each docstring gives the encoding and the rule of the effect. -/
inductive Instr where
  /-- `CLS`, word `00E0`; 43 R200. -/
  | cls
  /-- `RET`, word `00EE`; 41 R151. -/
  | ret
  /-- `SYS addr`, word `0nnn`; 41 R150. -/
  | sysAddr (nnn : Addr12)
  /-- `JP addr`, word `1nnn`; 41 R152. -/
  | jpAddr (nnn : Addr12)
  /-- `CALL addr`, word `2nnn`; 41 R153. -/
  | callAddr (nnn : Addr12)
  /-- `SE Vx, byte`, word `3xkk`; 41 R154. -/
  | seVxByte (x : Reg) (kk : Byte)
  /-- `SNE Vx, byte`, word `4xkk`; 41 R155. -/
  | sneVxByte (x : Reg) (kk : Byte)
  /-- `SE Vx, Vy`, word `5xy0`; 41 R156. -/
  | seVxVy (x y : Reg)
  /-- `LD Vx, byte`, word `6xkk`; 42 R170. -/
  | ldVxByte (x : Reg) (kk : Byte)
  /-- `ADD Vx, byte`, word `7xkk`; 42 R171. -/
  | addVxByte (x : Reg) (kk : Byte)
  /-- `LD Vx, Vy`, word `8xy0`; 42 R172. -/
  | ldVxVy (x y : Reg)
  /-- `OR Vx, Vy`, word `8xy1`; 42 R173. -/
  | orVxVy (x y : Reg)
  /-- `AND Vx, Vy`, word `8xy2`; 42 R174. -/
  | andVxVy (x y : Reg)
  /-- `XOR Vx, Vy`, word `8xy3`; 42 R175. -/
  | xorVxVy (x y : Reg)
  /-- `ADD Vx, Vy`, word `8xy4`; 42 R177. -/
  | addVxVy (x y : Reg)
  /-- `SUB Vx, Vy`, word `8xy5`; 42 R178. -/
  | subVxVy (x y : Reg)
  /-- `SHR Vx {, Vy}`, word `8xy6`; 42 R179. The field y is ignored by the effect (30 R105). -/
  | shrVxVy (x y : Reg)
  /-- `SUBN Vx, Vy`, word `8xy7`; 42 R180. -/
  | subnVxVy (x y : Reg)
  /-- `SHL Vx {, Vy}`, word `8xyE`; 42 R181. The field y is ignored by the effect (30 R105). -/
  | shlVxVy (x y : Reg)
  /-- `SNE Vx, Vy`, word `9xy0`; 41 R157. -/
  | sneVxVy (x y : Reg)
  /-- `LD I, addr`, word `Annn`; 44 R220. -/
  | ldIAddr (nnn : Addr12)
  /-- `JP V0, addr`, word `Bnnn`; 41 R158. -/
  | jpV0Addr (nnn : Addr12)
  /-- `RND Vx, byte`, word `Cxkk`; 42 R182. -/
  | rndVx (x : Reg) (kk : Byte)
  /-- `DRW Vx, Vy, nibble`, word `Dxyn`; 43 R203. -/
  | drwVxVyN (x y : Reg) (n : Nibble)
  /-- `SKP Vx`, word `Ex9E`; 45 R240. -/
  | skpVx (x : Reg)
  /-- `SKNP Vx`, word `ExA1`; 45 R241. -/
  | sknpVx (x : Reg)
  /-- `LD Vx, DT`, word `Fx07`; 45 R244. -/
  | ldVxDt (x : Reg)
  /-- `LD Vx, K`, word `Fx0A`; 45 R242. -/
  | ldVxK (x : Reg)
  /-- `LD DT, Vx`, word `Fx15`; 45 R245. -/
  | ldDtVx (x : Reg)
  /-- `LD ST, Vx`, word `Fx18`; 45 R246. -/
  | ldStVx (x : Reg)
  /-- `ADD I, Vx`, word `Fx1E`; 44 R221. -/
  | addIVx (x : Reg)
  /-- `LD F, Vx`, word `Fx29`; 43 R204. -/
  | ldFVx (x : Reg)
  /-- `LD B, Vx`, word `Fx33`; 44 R222. -/
  | ldBVx (x : Reg)
  /-- `LD [I], Vx`, word `Fx55`; 44 R223. -/
  | ldIVx (x : Reg)
  /-- `LD Vx, [I]`, word `Fx65`; 44 R224. -/
  | ldVxI (x : Reg)
deriving DecidableEq, Repr

end Sys2Proof
end

