-- ==== Sys2Proof/WellFormed.lean ====
section
/-! DEFINITION. Which instructions as syntax stand for a word of their own. Every field has the width of its operand, so the
one check left is that the address of SYS_ADDR is not one of the two whose words are CLS and RET (30 R99, 41 R150). -/

namespace Sys2Proof

/-- `SYS addr` is every word 0x0nnn "other than 0x00E0 and 0x00EE" (41 R150); the other shapes take every operand. -/
def Instr.wf : Instr → Bool
  | .sysAddr nnn => nnn != 0x0E0 && nnn != 0x0EE
  | _ => true

/-- The instruction is one some word decodes to. -/
abbrev WellFormed (i : Instr) : Prop := i.wf = true

end Sys2Proof
end

