-- ==== Sys2Proof/Decode.lean ====
section
/-! DEFINITION. The decoder of 30_encoding.md as the document writes it: a table of pattern and mask rows tried in order (R98 to
R101), total on every word, refusing by name a word no row matches; and the encoder, written from the formats of
R91. The nibble view of R102 stands at the end as a second decoder. -/

namespace Sys2Proof

/-! ## Fields (30 R92 to R95) -/

/-- `x = w[11:8]` (30 R93). -/
def fieldX (w : Word) : Reg := w.extractLsb' 8 4
/-- `y = w[7:4]` (30 R94). -/
def fieldY (w : Word) : Reg := w.extractLsb' 4 4
/-- `n = w[3:0]` (30 R94). -/
def fieldN (w : Word) : Nibble := w.extractLsb' 0 4
/-- `kk = w[7:0]` (30 R95). -/
def fieldKK (w : Word) : Byte := w.extractLsb' 0 8
/-- `nnn = w[11:0]` (30 R92). -/
def fieldNNN (w : Word) : Addr12 := w.extractLsb' 0 12
/-- The major opcode `w[15:12]` (30 R91). -/
def fieldOp (w : Word) : Nibble := w.extractLsb' 12 4

/-! ## The table (30 R101) -/

/-- One row of the table of 30 R101: the shape's name, its mask and pattern, and the instruction with its operands read from
the word (30 R97). -/
structure Row where
  mnemonic : String
  mask : Word
  pattern : Word
  build : Word → Instr

/-- "A word matches shape S iff `(word & S.mask) == S.pattern`" (30 R98). -/
def Row.matchesWord (r : Row) (w : Word) : Bool := w &&& r.mask == r.pattern

/-- Rows 1 to 8 of 30 R101: CLS and RET stand before SYS_ADDR, whose mask also matches their words (R99). -/
def rowsFlow : List Row := [
  ⟨"CLS", 0xFFFF, 0x00E0, fun _ => .cls⟩,
  ⟨"RET", 0xFFFF, 0x00EE, fun _ => .ret⟩,
  ⟨"SYS_ADDR", 0xF000, 0x0000, fun w => .sysAddr (fieldNNN w)⟩,
  ⟨"JP_ADDR", 0xF000, 0x1000, fun w => .jpAddr (fieldNNN w)⟩,
  ⟨"CALL_ADDR", 0xF000, 0x2000, fun w => .callAddr (fieldNNN w)⟩,
  ⟨"SE_VX_BYTE", 0xF000, 0x3000, fun w => .seVxByte (fieldX w) (fieldKK w)⟩,
  ⟨"SNE_VX_BYTE", 0xF000, 0x4000, fun w => .sneVxByte (fieldX w) (fieldKK w)⟩,
  ⟨"SE_VX_VY", 0xF00F, 0x5000, fun w => .seVxVy (fieldX w) (fieldY w)⟩]

/-- Rows 9 to 20 of 30 R101. -/
def rowsAlu : List Row := [
  ⟨"LD_VX_BYTE", 0xF000, 0x6000, fun w => .ldVxByte (fieldX w) (fieldKK w)⟩,
  ⟨"ADD_VX_BYTE", 0xF000, 0x7000, fun w => .addVxByte (fieldX w) (fieldKK w)⟩,
  ⟨"LD_VX_VY", 0xF00F, 0x8000, fun w => .ldVxVy (fieldX w) (fieldY w)⟩,
  ⟨"OR_VX_VY", 0xF00F, 0x8001, fun w => .orVxVy (fieldX w) (fieldY w)⟩,
  ⟨"AND_VX_VY", 0xF00F, 0x8002, fun w => .andVxVy (fieldX w) (fieldY w)⟩,
  ⟨"XOR_VX_VY", 0xF00F, 0x8003, fun w => .xorVxVy (fieldX w) (fieldY w)⟩,
  ⟨"ADD_VX_VY", 0xF00F, 0x8004, fun w => .addVxVy (fieldX w) (fieldY w)⟩,
  ⟨"SUB_VX_VY", 0xF00F, 0x8005, fun w => .subVxVy (fieldX w) (fieldY w)⟩,
  ⟨"SHR_VX_VY", 0xF00F, 0x8006, fun w => .shrVxVy (fieldX w) (fieldY w)⟩,
  ⟨"SUBN_VX_VY", 0xF00F, 0x8007, fun w => .subnVxVy (fieldX w) (fieldY w)⟩,
  ⟨"SHL_VX_VY", 0xF00F, 0x800E, fun w => .shlVxVy (fieldX w) (fieldY w)⟩,
  ⟨"SNE_VX_VY", 0xF00F, 0x9000, fun w => .sneVxVy (fieldX w) (fieldY w)⟩]

/-- Rows 21 to 26 of 30 R101. -/
def rowsIndex : List Row := [
  ⟨"LD_I_ADDR", 0xF000, 0xA000, fun w => .ldIAddr (fieldNNN w)⟩,
  ⟨"JP_V0_ADDR", 0xF000, 0xB000, fun w => .jpV0Addr (fieldNNN w)⟩,
  ⟨"RND_VX", 0xF000, 0xC000, fun w => .rndVx (fieldX w) (fieldKK w)⟩,
  ⟨"DRW_VX_VY_N", 0xF000, 0xD000, fun w => .drwVxVyN (fieldX w) (fieldY w) (fieldN w)⟩,
  ⟨"SKP_VX", 0xF0FF, 0xE09E, fun w => .skpVx (fieldX w)⟩,
  ⟨"SKNP_VX", 0xF0FF, 0xE0A1, fun w => .sknpVx (fieldX w)⟩]

/-- Rows 27 to 35 of 30 R101. -/
def rowsMisc : List Row := [
  ⟨"LD_VX_DT", 0xF0FF, 0xF007, fun w => .ldVxDt (fieldX w)⟩,
  ⟨"LD_VX_K", 0xF0FF, 0xF00A, fun w => .ldVxK (fieldX w)⟩,
  ⟨"LD_DT_VX", 0xF0FF, 0xF015, fun w => .ldDtVx (fieldX w)⟩,
  ⟨"LD_ST_VX", 0xF0FF, 0xF018, fun w => .ldStVx (fieldX w)⟩,
  ⟨"ADD_I_VX", 0xF0FF, 0xF01E, fun w => .addIVx (fieldX w)⟩,
  ⟨"LD_F_VX", 0xF0FF, 0xF029, fun w => .ldFVx (fieldX w)⟩,
  ⟨"LD_B_VX", 0xF0FF, 0xF033, fun w => .ldBVx (fieldX w)⟩,
  ⟨"LD_I_VX", 0xF0FF, 0xF055, fun w => .ldIVx (fieldX w)⟩,
  ⟨"LD_VX_I", 0xF0FF, 0xF065, fun w => .ldVxI (fieldX w)⟩]

/-- The 35 rows in priority order (30 R99, R101). -/
def table : List Row := rowsFlow ++ rowsAlu ++ rowsIndex ++ rowsMisc

/-! ## Decoding -/

/-- Why a decoding gives no instruction. -/
inductive DecodeError where
  /-- The word matches no row: the "explicit 'no match' outcome" (30 R100, R104). The engine raises UnknownInstruction. -/
  | noMatch (w : Word)
  /-- Fewer than two bytes: no instruction word is there (30 R90). -/
  | truncated
deriving DecidableEq, Repr

/-- `Decode(w)` (30 R100): the first row that matches gives the shape and its operands. -/
def decodeWord (w : Word) : Except DecodeError Instr :=
  match table.find? (fun r => r.matchesWord w) with
  | some r => .ok (r.build w)
  | none => .error (.noMatch w)

/-- The word two consecutive bytes hold: the byte at the lower address is the high byte (20 R66). -/
def wordOfBytes (hi lo : Byte) : Word := hi ++ lo

/-- Decode the instruction at the front of a byte sequence; every instruction is one word of two bytes (30 R90). -/
def decodeBytes : List Byte → Except DecodeError (Instr × List Byte)
  | hi :: lo :: rest =>
    match decodeWord (wordOfBytes hi lo) with
    | .ok i => .ok (i, rest)
    | .error e => .error e
  | _ => .error .truncated

/-! ## Encoding (the formats of 30 R91) -/

/-- Format `A`: opcode, address. -/
def wordA (op : Nibble) (nnn : Addr12) : Word := op ++ nnn
/-- Format `XB`: opcode, register, byte. -/
def wordXB (op : Nibble) (x : Reg) (kk : Byte) : Word := op ++ x ++ kk
/-- Formats `XY` and `XYN`: opcode, register, register, then the function or the nibble operand. -/
def wordXY (op : Nibble) (x y : Reg) (f : Nibble) : Word := op ++ x ++ y ++ f
/-- Format `X`: opcode, register, an 8-bit function. -/
def wordX (op : Nibble) (x : Reg) (f : Byte) : Word := op ++ x ++ f

/-- The word of an instruction (30 R101, column "encoding"). -/
def encode : Instr → Word
  | .cls => 0x00E0
  | .ret => 0x00EE
  | .sysAddr nnn => wordA 0x0 nnn
  | .jpAddr nnn => wordA 0x1 nnn
  | .callAddr nnn => wordA 0x2 nnn
  | .seVxByte x kk => wordXB 0x3 x kk
  | .sneVxByte x kk => wordXB 0x4 x kk
  | .seVxVy x y => wordXY 0x5 x y 0x0
  | .ldVxByte x kk => wordXB 0x6 x kk
  | .addVxByte x kk => wordXB 0x7 x kk
  | .ldVxVy x y => wordXY 0x8 x y 0x0
  | .orVxVy x y => wordXY 0x8 x y 0x1
  | .andVxVy x y => wordXY 0x8 x y 0x2
  | .xorVxVy x y => wordXY 0x8 x y 0x3
  | .addVxVy x y => wordXY 0x8 x y 0x4
  | .subVxVy x y => wordXY 0x8 x y 0x5
  | .shrVxVy x y => wordXY 0x8 x y 0x6
  | .subnVxVy x y => wordXY 0x8 x y 0x7
  | .shlVxVy x y => wordXY 0x8 x y 0xE
  | .sneVxVy x y => wordXY 0x9 x y 0x0
  | .ldIAddr nnn => wordA 0xA nnn
  | .jpV0Addr nnn => wordA 0xB nnn
  | .rndVx x kk => wordXB 0xC x kk
  | .drwVxVyN x y n => wordXY 0xD x y n
  | .skpVx x => wordX 0xE x 0x9E
  | .sknpVx x => wordX 0xE x 0xA1
  | .ldVxDt x => wordX 0xF x 0x07
  | .ldVxK x => wordX 0xF x 0x0A
  | .ldDtVx x => wordX 0xF x 0x15
  | .ldStVx x => wordX 0xF x 0x18
  | .addIVx x => wordX 0xF x 0x1E
  | .ldFVx x => wordX 0xF x 0x29
  | .ldBVx x => wordX 0xF x 0x33
  | .ldIVx x => wordX 0xF x 0x55
  | .ldVxI x => wordX 0xF x 0x65

/-- The two bytes an instruction stands as in memory, the high byte first (20 R66, R67). -/
def encodeBytes (i : Instr) : List Byte := [(encode i).extractLsb' 8 8, (encode i).extractLsb' 0 8]

/-! ## The same decoder by major opcode (30 R102) -/

/-- The function nibble of major opcode 8 (30 R102). -/
def decodeAlu (x y : Reg) (f : Nibble) : Option Instr :=
  match f with
  | 0x0 => some (.ldVxVy x y)
  | 0x1 => some (.orVxVy x y)
  | 0x2 => some (.andVxVy x y)
  | 0x3 => some (.xorVxVy x y)
  | 0x4 => some (.addVxVy x y)
  | 0x5 => some (.subVxVy x y)
  | 0x6 => some (.shrVxVy x y)
  | 0x7 => some (.subnVxVy x y)
  | 0xE => some (.shlVxVy x y)
  | _ => none

/-- The function byte of major opcode F (30 R102). -/
def decodeMisc (x : Reg) (f : Byte) : Option Instr :=
  match f with
  | 0x07 => some (.ldVxDt x)
  | 0x0A => some (.ldVxK x)
  | 0x15 => some (.ldDtVx x)
  | 0x18 => some (.ldStVx x)
  | 0x1E => some (.addIVx x)
  | 0x29 => some (.ldFVx x)
  | 0x33 => some (.ldBVx x)
  | 0x55 => some (.ldIVx x)
  | 0x65 => some (.ldVxI x)
  | _ => none

/-- The case split of 30 R102 on `w[15:12]`; `none` is NoMatch. -/
def decodeByOpcode (w : Word) : Option Instr :=
  match fieldOp w with
  | 0x0 => if w = 0x00E0 then some .cls else if w = 0x00EE then some .ret else some (.sysAddr (fieldNNN w))
  | 0x1 => some (.jpAddr (fieldNNN w))
  | 0x2 => some (.callAddr (fieldNNN w))
  | 0x3 => some (.seVxByte (fieldX w) (fieldKK w))
  | 0x4 => some (.sneVxByte (fieldX w) (fieldKK w))
  | 0x5 => if fieldN w = 0 then some (.seVxVy (fieldX w) (fieldY w)) else none
  | 0x6 => some (.ldVxByte (fieldX w) (fieldKK w))
  | 0x7 => some (.addVxByte (fieldX w) (fieldKK w))
  | 0x8 => decodeAlu (fieldX w) (fieldY w) (fieldN w)
  | 0x9 => if fieldN w = 0 then some (.sneVxVy (fieldX w) (fieldY w)) else none
  | 0xA => some (.ldIAddr (fieldNNN w))
  | 0xB => some (.jpV0Addr (fieldNNN w))
  | 0xC => some (.rndVx (fieldX w) (fieldKK w))
  | 0xD => some (.drwVxVyN (fieldX w) (fieldY w) (fieldN w))
  | 0xE => if fieldKK w = 0x9E then some (.skpVx (fieldX w))
           else if fieldKK w = 0xA1 then some (.sknpVx (fieldX w)) else none
  | _ => decodeMisc (fieldX w) (fieldKK w)

/-! ## Extraction by mask and shift (30 R97), and the conventional syntax (30 R106) -/

/-- The shift of a field mask: the number of its trailing zero bits. -/
def maskShift (mask : Word) : Nat := (List.range 16).findIdx (fun k => mask.getLsbD k)

/-- An operand by its field mask: masked and shifted right to remove the mask's trailing zeros (30 R97). The fields above are
this at the masks of 30 R92 to R95 (Laws/Decode.lean). -/
def operandByMask (mask w : Word) : Word := (w &&& mask) >>> maskShift mask

/-- One hexadecimal digit. -/
def hexDigit (d : Nibble) : String := String.singleton ("0123456789ABCDEF".toList.getD d.toNat '0')

/-- `V0` to `V9`, `VA` to `VF`. -/
def regSyntax (x : Reg) : String := "V" ++ hexDigit x

/-- A byte constant. -/
def byteSyntax (kk : Byte) : String := "0x" ++ hexDigit (kk.extractLsb' 4 4) ++ hexDigit (kk.extractLsb' 0 4)

/-- A 12-bit constant. -/
def addrSyntax (nnn : Addr12) : String :=
  "0x" ++ hexDigit (nnn.extractLsb' 8 4) ++ hexDigit (nnn.extractLsb' 4 4) ++ hexDigit (nnn.extractLsb' 0 4)

/-- A mnemonic with two operands. -/
def syntax2 (m a b : String) : String := m ++ " " ++ a ++ ", " ++ b

/-- The conventional syntax of an instruction (30 R106, decision D30). -/
def assembly (i : Instr) : String :=
  match i with
  | .cls => "CLS"
  | .ret => "RET"
  | .sysAddr nnn => "SYS " ++ addrSyntax nnn
  | .jpAddr nnn => "JP " ++ addrSyntax nnn
  | .callAddr nnn => "CALL " ++ addrSyntax nnn
  | .seVxByte x kk => syntax2 "SE" (regSyntax x) (byteSyntax kk)
  | .sneVxByte x kk => syntax2 "SNE" (regSyntax x) (byteSyntax kk)
  | .seVxVy x y => syntax2 "SE" (regSyntax x) (regSyntax y)
  | .ldVxByte x kk => syntax2 "LD" (regSyntax x) (byteSyntax kk)
  | .addVxByte x kk => syntax2 "ADD" (regSyntax x) (byteSyntax kk)
  | .ldVxVy x y => syntax2 "LD" (regSyntax x) (regSyntax y)
  | .orVxVy x y => syntax2 "OR" (regSyntax x) (regSyntax y)
  | .andVxVy x y => syntax2 "AND" (regSyntax x) (regSyntax y)
  | .xorVxVy x y => syntax2 "XOR" (regSyntax x) (regSyntax y)
  | .addVxVy x y => syntax2 "ADD" (regSyntax x) (regSyntax y)
  | .subVxVy x y => syntax2 "SUB" (regSyntax x) (regSyntax y)
  | .shrVxVy x y => syntax2 "SHR" (regSyntax x) (regSyntax y)
  | .subnVxVy x y => syntax2 "SUBN" (regSyntax x) (regSyntax y)
  | .shlVxVy x y => syntax2 "SHL" (regSyntax x) (regSyntax y)
  | .sneVxVy x y => syntax2 "SNE" (regSyntax x) (regSyntax y)
  | .ldIAddr nnn => syntax2 "LD" "I" (addrSyntax nnn)
  | .jpV0Addr nnn => syntax2 "JP" "V0" (addrSyntax nnn)
  | .rndVx x kk => syntax2 "RND" (regSyntax x) (byteSyntax kk)
  | .drwVxVyN x y n => "DRW " ++ (regSyntax x) ++ ", " ++ (regSyntax y) ++ ", 0x" ++ hexDigit n
  | .skpVx x => "SKP " ++ (regSyntax x)
  | .sknpVx x => "SKNP " ++ (regSyntax x)
  | .ldVxDt x => syntax2 "LD" (regSyntax x) "DT"
  | .ldVxK x => syntax2 "LD" (regSyntax x) "K"
  | .ldDtVx x => syntax2 "LD" "DT" (regSyntax x)
  | .ldStVx x => syntax2 "LD" "ST" (regSyntax x)
  | .addIVx x => syntax2 "ADD" "I" (regSyntax x)
  | .ldFVx x => syntax2 "LD" "F" (regSyntax x)
  | .ldBVx x => syntax2 "LD" "B" (regSyntax x)
  | .ldIVx x => syntax2 "LD" "[I]" (regSyntax x)
  | .ldVxI x => syntax2 "LD" (regSyntax x) "[I]"

/-! ## The opcode table's words -/

/-- The instruction this decoder reads from an instruction of the opcode table whose bits are `w`, `nbits` of them given and
every bit above them 0. The word lies in memory high byte first (20 R66). -/
def decodeTableWord (nbits w : Nat) : Option Instr :=
  let word : Word := BitVec.ofNat 16 (w % 2 ^ nbits)
  match decodeBytes [word.extractLsb' 8 8, word.extractLsb' 0 8] with
  | .ok (i, _) => some i
  | .error _ => none

end Sys2Proof
end

