-- ==== Sys2Proof/Machine/Flow.lean ====
section
/-! DEFINITION. Control transfer (41_flow.md). The state an instruction finds is the one after the fetch: PC is the address of the
instruction that follows (40 R122). -/

namespace Sys2Proof.Machine

/-- SYS_ADDR (41 R150): nothing, by `SYS_EFFECT`. -/
def execSysAddr (nnn : Addr12) (s : State) : Host.Outcome State Fault Refusal :=
  match Params.sysEffect with
  | .nop => .next s
  | .fault => .next (raise .unknownInstruction (encode (.sysAddr nnn)) s)

/-- RET (41 R151): `PC <- Pop()`; StackUnderflow records the word 0x00EE (60 R264, R266). -/
def execRet (s : State) : Host.Outcome State Fault Refusal :=
  match pop s with
  | .ok (a, s') => .next (s'.withPc a)
  | .error .underflow => .next (raise .stackUnderflow (encode .ret) s)
  | .error .outOfRange => .fault .stackPointerOutOfRange

/-- JP_ADDR (41 R152): `PC <- nnn`. -/
def execJpAddr (nnn : Addr12) (s : State) : Host.Outcome State Fault Refusal :=
  .next (s.withPc (zextAddr nnn))

/-- CALL_ADDR (41 R153): `Push(PC)`, then `PC <- nnn`; StackOverflow records the word 0x2nnn (60 R263, R266). -/
def execCallAddr (nnn : Addr12) (s : State) : Host.Outcome State Fault Refusal :=
  match push s.pc s with
  | some s' => .next (s'.withPc (zextAddr nnn))
  | none => .next (raise .stackOverflow (encode (.callAddr nnn)) s)

/-- SE_VX_BYTE (41 R154). -/
def execSeVxByte (x : Reg) (kk : Byte) (s : State) : Host.Outcome State Fault Refusal :=
  .next (skipIf (s.reg x == kk) s)

/-- SNE_VX_BYTE (41 R155). -/
def execSneVxByte (x : Reg) (kk : Byte) (s : State) : Host.Outcome State Fault Refusal :=
  .next (skipIf (s.reg x != kk) s)

/-- SE_VX_VY (41 R156). -/
def execSeVxVy (x y : Reg) (s : State) : Host.Outcome State Fault Refusal :=
  .next (skipIf (s.reg x == s.reg y) s)

/-- SNE_VX_VY (41 R157). -/
def execSneVxVy (x y : Reg) (s : State) : Host.Outcome State Fault Refusal :=
  .next (skipIf (s.reg x != s.reg y) s)

/-- JP_V0_ADDR (41 R158): `PC <- trunc16(nnn + V[0])`. -/
def execJpV0Addr (nnn : Addr12) (s : State) : Host.Outcome State Fault Refusal :=
  .next (s.withPc (zextAddr nnn + zextByte (s.reg 0)))

end Sys2Proof.Machine
end

