-- ==== Sys2Proof/Machine/Index.lean ====
section
/-! DEFINITION. The address register and the loads and stores (44_memory_index.md). I is the same before and after every access
(44 R225); an address out of range ends the instruction with the accesses before it done (60 R265). -/

namespace Sys2Proof.Machine

/-- LD_I_ADDR (44 R220). -/
def execLdIAddr (nnn : Addr12) (s : State) : Host.Outcome State Fault Refusal :=
  .next (s.withI (zextAddr nnn))

/-- ADD_I_VX (44 R221): 16-bit wrap, VF not written. -/
def execAddIVx (x : Reg) (s : State) : Host.Outcome State Fault Refusal :=
  .next (s.withI (s.i + zextByte (s.reg x)))

/-- LD_B_VX (44 R222): the three decimal digits of V[x] at I, I + 1, I + 2. -/
def execLdBVx (x : Reg) (s : State) : Host.Outcome State Fault Refusal :=
  finish (storeBytes 0 (bcdDigits (s.reg x)) s)

/-- LD_I_VX (44 R223): the register dump. -/
def execLdIVx (x : Reg) (s : State) : Host.Outcome State Fault Refusal :=
  finish (storeBytes 0 (dumpBytes x s) s)

/-- LD_VX_I (44 R224): the register load. -/
def execLdVxI (x : Reg) (s : State) : Host.Outcome State Fault Refusal :=
  finish (loadRegs (upTo x) s)

end Sys2Proof.Machine
end

