-- ==== Sys2Proof/Machine/TimersKeys.lean ====
section
/-! DEFINITION. The timer and key instructions (45_timers_keys.md). -/

namespace Sys2Proof.Machine

/-- SKP_VX (45 R240): the key is named by the value of V[x]. -/
def execSkpVx (x : Reg) (s : State) : Host.Outcome State Fault Refusal :=
  .next (skipIf (isPressed (s.reg x) s) s)

/-- SKNP_VX (45 R241). -/
def execSknpVx (x : Reg) (s : State) : Host.Outcome State Fault Refusal :=
  .next (skipIf (!isPressed (s.reg x) s) s)

/-- LD_VX_DT (45 R244): the value before any tick of this cycle. -/
def execLdVxDt (x : Reg) (s : State) : Host.Outcome State Fault Refusal :=
  .next (s.setReg x s.dt)

/-- LD_VX_K (45 R242): begin the wait; `Resume` writes V[x] (45 R243, Cycle.lean). -/
def execLdVxK (x : Reg) (s : State) : Host.Outcome State Fault Refusal :=
  .next ((s.withKeyWake false).withRun (.waitKey x))

/-- LD_DT_VX (45 R245). -/
def execLdDtVx (x : Reg) (s : State) : Host.Outcome State Fault Refusal :=
  .next (s.withDt (s.reg x))

/-- LD_ST_VX (45 R246). -/
def execLdStVx (x : Reg) (s : State) : Host.Outcome State Fault Refusal :=
  .next (s.withSt (s.reg x))

end Sys2Proof.Machine
end

