-- ==== Sys2Proof/Machine/Snapshot.lean ====
section
/-! DEFINITION. Snapshot and restore (60 R288, R289): the tuple of fields a save captures, when a blob is well-formed, and what
a restore writes. The byte layout of a blob is out of scope (00 R5d). -/

namespace Sys2Proof.Machine

/-- `Snapshot` (60 R288): the fields in order, every byte of memory, the packed pixels. -/
def snapshot (s : State) : Blob where
  v := s.v.toList
  i := s.i
  dt := s.dt
  st := s.st
  stack := s.stack.toList
  sp := s.sp
  pc := s.pc
  mem := (List.range Config.memSize).map s.mem.read
  pixels := s.fb.packed
  coll := s.coll

/-- "All fields present with their full length, and SP ≤ 16" (60 R289, decision D26). -/
def Blob.wf (b : Blob) : Bool :=
  b.v.length == 16 && b.stack.length == 16 && decide (b.sp ≤ 16) && b.mem.length == Config.memSize && b.pixels.length == 256

/-- Apply the fields of a well-formed blob, then `REPAINT <- 1` (60 R289); state not in the blob is unchanged. -/
def applyBlob (b : Blob) (s : State) : State :=
  { s with
    v := Vector.ofFn (fun k => b.v.getD k.val 0)
    i := b.i
    dt := b.dt
    st := b.st
    stack := Vector.ofFn (fun k => b.stack.getD k.val 0)
    sp := b.sp
    pc := b.pc
    mem := Memory.writeAll 0 b.mem []
    fb := Grid.ofPacked b.pixels
    coll := b.coll
    repaint := true }

/-- `Restore(blob)` where it is allowed: a blob that is not well-formed is answered by InvalidSaveFile and changes nothing
(60 R273, R289). -/
def restore (b : Option Blob) (s : State) : State :=
  match b with
  | some blob => if blob.wf then applyBlob blob s else emit .invalidSaveFile s
  | none => emit .invalidSaveFile s

end Sys2Proof.Machine
end

