-- ==== Sys2Proof/Machine/Cycle.lean ====
section
/-! DEFINITION. The steps of the core (40_pipeline_cycle.md, 60 R269): Fetch, the timer tick, the cycle boundary, Cycle, Resume,
Cleanup, and Reset (70 R300). -/

namespace Sys2Proof.Machine

/-! ## Fetch and the tick -/

/-- `Fetch()` (40 R122, 20 R66): two byte reads, the lower address the high byte, then PC advances by 2. On an address out of
range PC is not advanced (vector F19). -/
def fetch (s : State) : Except Word (Word × State) :=
  match memRead s.pc s with
  | .error a => .error a
  | .ok hi =>
    match memRead (s.pc + 1) s with
    | .error a => .error a
    | .ok lo => .ok (wordOfBytes hi lo, s.withPc (s.pc + 2))

/-- A timer after a tick: one less, never below 0 (10 R30). -/
def countDown (t : Byte) : Byte := if t = 0 then 0 else t - 1

/-- `consumeRepaintPending()` inside the tick: a pending repaint is emitted and cleared (40 R126). -/
def consumeRepaint (s : State) : State := if s.repaint then (emit (.repaint s.fb) s).withRepaint false else s

/-- `TimerTick()` (40 R126). -/
def timerTick (s : State) : State := consumeRepaint ((s.withDt (countDown s.dt)).withSt (countDown s.st))

/-- `EndOfCycle()` (40 R125). -/
def endOfCycle (s : State) : State :=
  if s.refresh ≤ s.cyc + 1 then (timerTick (s.withCyc (s.cyc + 1))).withCyc 0 else s.withCyc (s.cyc + 1)

/-! ## Cycle -/

/-- A save request is served at the boundary: the snapshot of the state as it stands, and the latch cleared (40 R130). -/
def serveSave (s : State) : State := if s.saveReq then (emit (.snapshot (snapshot s)) s).withSaveReq false else s

/-- What follows the execute phase: `EndOfCycle` when the core still runs; nothing when it waits for a key or has halted (40
R124). -/
def afterExecute (s : State) : State := if s.run = .running then endOfCycle s else s

/-- Execute a decoded instruction and end its cycle (40 R124). -/
def executeCycle (i : Instr) (s : State) : Host.Outcome State Fault Refusal :=
  match exec i s with
  | .next s' => .next (afterExecute s')
  | .fault r => .fault r
  | .refused r => .refused r

/-- `Cycle()` (40 R124) from the fetch on. -/
def fetchExecute (s : State) : Host.Outcome State Fault Refusal :=
  match fetch s with
  | .error a => .next (raise .addressOutOfRange a s)
  | .ok (w, s') =>
    match decodeWord w with
    | .ok i => executeCycle i s'
    | .error _ => .next (raise .unknownInstruction w s')

/-- `Cycle()` (40 R124): stop first, then the save, both sampled before the fetch (40 R130). -/
def cycle (s : State) : Host.Outcome State Fault Refusal :=
  if s.stopReq then .next (haltStop s) else fetchExecute (serveSave s)

/-! ## Resume, Reset, Cleanup -/

/-- The key branch of `Resume` (45 R243, 40 R129): V[x] gets the last key, and the suspended cycle counts as one. -/
def takeKey (x : Reg) (s : State) : State :=
  endOfCycle ((s.setReg x (s.lastKey.setWidth 8)).withRun .running)

/-- `Resume()` (40 R129), and no step at all while neither a key nor a stop has come. With both, either branch: a free choice.
Log entry 7. -/
def resume (x : Reg) (s : State) : State :=
  match s.stopReq, s.keyWake with
  | false, false => s
  | true, false => haltStop s
  | false, true => takeKey x s
  | true, true =>
    if Config.stopWins s.choices then haltStop (s.withChoices (s.choices + 1))
    else takeKey x (s.withChoices (s.choices + 1))

/-- `Reset()` (70 R300): the state of a new machine, but RATE, REFRESH, ERR and ERRWORD are kept (70 R301), and so are the model's
own fields, which are no state of the machine. -/
def resetMachine (s : State) : State :=
  { State.reset with
    rate := s.rate
    refresh := s.refresh
    err := s.err
    errWord := s.errWord
    schedule := s.schedule
    emitted := s.emitted
    draws := s.draws
    choices := s.choices }

/-- `Cleanup()` (60 R269): everything reset, RUN = Idle, and the report to the caller. -/
def cleanup (s : State) : State := emit (.runEnded s.err s.errWord) (resetMachine s)

/-- The core's own step in each run state (40 R120, R121): none in Idle, where the state stays as it is. -/
def coreStep (s : State) : Host.Outcome State Fault Refusal :=
  match s.run with
  | .idle => .next s
  | .running => cycle s
  | .waitKey x => .next (resume x s)
  | .halted => .next (cleanup s)

end Sys2Proof.Machine
end

