-- ==== Sys2Proof/Machine/HostEvents.lean ====
section
/-! DEFINITION. The events of the host (60 R280 to R289, 20 R72), each taken between two steps of the core (40 R128), and whose
turn it is. An event in breach of the host's duties (60 R292) has no meaning and is refused. -/

namespace Sys2Proof.Machine

/-- `LoadRom(bytes)` (20 R72): copied from 0x200 upward; an image above 3584 bytes is answered by RomTooLarge and changes
nothing. -/
def loadRom (bytes : List Byte) (s : State) : State :=
  if bytes.length ≤ Config.romMax then s.withMem (s.mem.writeAll Config.loadBase bytes) else emit .romTooLarge s

/-- `Start` (60 R281). -/
def start (s : State) : State :=
  ((((((s.withErr .none).withErrWord 0).withCyc 0).withKeyWake false).withStopReq false).withSaveReq false).withRun .running

/-- The bit of key k in KEYS. -/
def keyBit (k : Nat) : BitVec 16 := 1#16 <<< k

/-- A run state in which a key wait is suspended. -/
def Run.isWait : Run → Bool
  | .waitKey _ => true
  | _ => false

/-- `KeyDown(k)` (60 R282): the key is held and is the last one; it wakes a pending wait. -/
def keyDown (k : Nat) (s : State) : State :=
  ((s.withKeys (s.keys ||| keyBit k)).withLastKey (BitVec.ofNat 4 k)).withKeyWake (s.keyWake || s.run.isWait)

/-- `KeyUp(k)` (60 R283): LASTKEY and KEYWAKE are unchanged. -/
def keyUp (k : Nat) (s : State) : State := s.withKeys (s.keys &&& ~~~keyBit k)

/-- `SetRate(r)` (60 R286): CYC is not changed. -/
def setRate (r : Nat) (s : State) : State := (s.withRate r).withRefresh (refreshOf r)

/-- The effect of an event, in a run state that allows it (60 R280). -/
def hostStep (e : HostEvent) (s : State) : Host.Outcome State Fault Refusal :=
  match e with
  | .reset => if s.run = .idle then .next (resetMachine s) else .refused .eventNotEnabled
  | .loadRom bytes => if s.run = .idle then .next (loadRom bytes s) else .refused .eventNotEnabled
  | .restore b => if s.run = .idle ∨ s.run = .running then .next (restore b s) else .refused .eventNotEnabled
  | .start => if s.run = .idle then .next (start s) else .refused .eventNotEnabled
  | .keyDown k => if k < Config.nkeys then .next (keyDown k s) else .refused .keyIndexOutOfRange
  | .keyUp k => if k < Config.nkeys then .next (keyUp k s) else .refused .keyIndexOutOfRange
  | .stop => .next (s.withStopReq true)
  | .requestSave => .next (s.withSaveReq true)
  | .setRate r => if Config.tickHz ≤ r then .next (setRate r s) else .refused .rateBelowMinimum

/-- The next turn: the head of the schedule, the core's when the schedule is empty. -/
def State.turn (s : State) : Turn := s.schedule.headD .core

/-- The state with the turn taken off the schedule. -/
def takeTurn (s : State) : State := s.withSchedule s.schedule.tail

/-- One step of whoever is next. -/
def turnStep (t : Turn) (s : State) : Host.Outcome State Fault Refusal :=
  match t with
  | .core => coreStep s
  | .host e => hostStep e s

/-- The word of an instruction stored where the next fetch reads it, high byte first (20 R66). -/
def storeCode (w : Word) (s : State) : State :=
  match memWrite s.pc (w.extractLsb' 8 8) s with
  | .error _ => s
  | .ok s' =>
    match memWrite (s.pc + 1) (w.extractLsb' 0 8) s' with
    | .error _ => s
    | .ok s'' => s''

end Sys2Proof.Machine
end

