-- ==== Sys2Proof/Machine/Step.lean ====
section
/-! DEFINITION. The step: one turn, of the core or of the host, as the schedule in the state says (40 R121, R128). -/

namespace Sys2Proof.Machine

/-- One step of the machine. -/
def step (s : State) : Host.Outcome State Fault Refusal := turnStep s.turn (takeTurn s)

/-- `s` with the instruction of bits `w` stored at PC, and what `LoadRom` and `Start` leave that its fetch needs: a running core
whose turn it is, no stop pending. Log entry 21. -/
def State.withFetchWord (s : State) (nbits w : Nat) : State :=
  (((storeCode (BitVec.ofNat 16 (w % 2 ^ nbits)) s).withRun .running).withSchedule []).withStopReq false

end Sys2Proof.Machine
end

