-- ==== Sys2Proof/Safety.lean ====
section
/-! DEFINITION. The terms claims are stated in: the invariant of the machine, the bound on PC, what an instruction may change
(its frame), and the conditions under which the core is about to run an instruction. -/

namespace Sys2Proof.Machine

/-! ## Invariants -/

/-- What holds of every state the machine reaches: memory in canonical form, SP in 0 to 16 (10 R32), REFRESH the quotient of a
RATE of at least 60 (10 R48), no cause of a halt recorded while a run goes on and one recorded in Halted (60 R281, R266), and
no detail for the causes None and Stop (10 R46). -/
structure State.Inv (s : State) : Prop where
  memWf : s.mem.wf
  spLe : s.sp ≤ Config.stackCap
  rateGe : Config.tickHz ≤ s.rate
  refreshEq : s.refresh = s.rate / Config.tickHz
  activeNoErr : s.run = .running ∨ s.run.isWait = true → s.err = .none
  haltedErr : s.run = .halted → s.err ≠ .none
  noDetail : s.err = .none ∨ s.err = .stop → s.errWord = 0

/-- The bound of 10 R27: PC is at most 0x10FE, and every return address on the stack at most 0x1000 (70 R319). -/
structure State.PcBound (s : State) : Prop where
  pcLe : s.pc.toNat ≤ 0x10FE
  slotsLe : ∀ k (h : k < 16), (s.stack[k]'h).toNat ≤ 0x1000

/-- Every element `Reset` writes at the value of 10 R51; RATE, REFRESH, ERR and ERRWORD are not among them (70 R301). -/
structure State.AtReset (s : State) : Prop where
  regs : ∀ r, s.reg r = 0
  i : s.i = 0
  timers : s.dt = 0 ∧ s.st = 0
  pc : s.pc = 0x0200
  sp : s.sp = 0
  slots : ∀ k (h : k < 16), s.stack[k]'h = 0
  glyphs : ∀ a, a < 80 → s.mem.read a = Params.glyphs.getD a 0
  rest : ∀ a, 80 ≤ a → s.mem.read a = 0
  dark : ∀ x y, s.fb.pixel x y = false
  flags : s.coll = false ∧ s.repaint = false
  input : s.keys = 0 ∧ s.lastKey = 0 ∧ s.keyWake = false
  run : s.run = .idle
  cyc : s.cyc = 0
  latches : s.stopReq = false ∧ s.saveReq = false

/-! ## Frames -/

/-- What a step may change; what is not named is unchanged. -/
structure Touch where
  /-- General registers that may change. -/
  regs : List Reg := []
  /-- Memory addresses that may change. -/
  cells : List Nat := []
  /-- Stack slots that may change. -/
  slots : List Nat := []
  i : Bool := false
  pc : Bool := false
  dt : Bool := false
  st : Bool := false
  sp : Bool := false
  /-- FB, COLL and REPAINT. -/
  screen : Bool := false
  /-- KEYWAKE and RUN. -/
  wait : Bool := false
  /-- RUN, ERR and ERRWORD. -/
  halt : Bool := false
  /-- The count of random bytes drawn. -/
  draws : Bool := false
deriving DecidableEq, Repr

/-- `t` differs from `s` at most where `c` says. KEYS, LASTKEY, CYC, RATE, REFRESH, the latches, the schedule, the outputs and the
count of choices never change. -/
structure Frame (c : Touch) (s t : State) : Prop where
  regs : ∀ r, r ∉ c.regs → t.reg r = s.reg r
  cells : ∀ a, a ∉ c.cells → t.mem.read a = s.mem.read a
  slots : ∀ k, k ∉ c.slots → t.stack[k]? = s.stack[k]?
  i : c.i = false → t.i = s.i
  pc : c.pc = false → t.pc = s.pc
  dt : c.dt = false → t.dt = s.dt
  st : c.st = false → t.st = s.st
  sp : c.sp = false → t.sp = s.sp
  screen : c.screen = false → t.fb = s.fb ∧ t.coll = s.coll ∧ t.repaint = s.repaint
  keyWake : c.wait = false → t.keyWake = s.keyWake
  run : c.wait = false → c.halt = false → t.run = s.run
  err : c.halt = false → t.err = s.err ∧ t.errWord = s.errWord
  draws : c.draws = false → t.draws = s.draws
  input : t.keys = s.keys ∧ t.lastKey = s.lastKey
  clock : t.cyc = s.cyc ∧ t.rate = s.rate ∧ t.refresh = s.refresh
  latches : t.stopReq = s.stopReq ∧ t.saveReq = s.saveReq
  record : t.schedule = s.schedule ∧ t.emitted = s.emitted ∧ t.choices = s.choices

/-- The addresses of the first n bytes of an access through I (44 R225). -/
def accessCells (s : State) (n : Nat) : List Nat := (List.range n).map (fun k => (effAddr s k).toNat)

/-- What each instruction may change, the halt of 60 R261 included where its rule can raise an error. -/
def touched (i : Instr) (s : State) : Touch :=
  match i with
  | .cls => { screen := true }
  | .ret => { pc := true, sp := true, halt := true }
  | .sysAddr _ => {}
  | .jpAddr _ => { pc := true }
  | .callAddr _ => { pc := true, sp := true, slots := [s.sp], halt := true }
  | .seVxByte _ _ => { pc := true }
  | .sneVxByte _ _ => { pc := true }
  | .seVxVy _ _ => { pc := true }
  | .ldVxByte x _ => { regs := [x] }
  | .addVxByte x _ => { regs := [x] }
  | .ldVxVy x _ => { regs := [x] }
  | .orVxVy x _ => { regs := [x] }
  | .andVxVy x _ => { regs := [x] }
  | .xorVxVy x _ => { regs := [x] }
  | .addVxVy x _ => { regs := [x, vf] }
  | .subVxVy x _ => { regs := [x, vf] }
  | .shrVxVy x _ => { regs := [x, vf] }
  | .subnVxVy x _ => { regs := [x, vf] }
  | .shlVxVy x _ => { regs := [x, vf] }
  | .sneVxVy _ _ => { pc := true }
  | .ldIAddr _ => { i := true }
  | .jpV0Addr _ => { pc := true }
  | .rndVx x _ => { regs := [x], draws := true }
  | .drwVxVyN _ _ _ => { regs := [vf], screen := true, halt := true }
  | .skpVx _ => { pc := true }
  | .sknpVx _ => { pc := true }
  | .ldVxDt x => { regs := [x] }
  | .ldVxK _ => { wait := true }
  | .ldDtVx _ => { dt := true }
  | .ldStVx _ => { st := true }
  | .addIVx _ => { i := true }
  | .ldFVx _ => { i := true }
  | .ldBVx _ => { cells := accessCells s 3, halt := true }
  | .ldIVx x => { cells := accessCells s (x.toNat + 1), halt := true }
  | .ldVxI x => { regs := (upTo x).map regOf, halt := true }

/-! ## About to run an instruction -/

/-- The first n bytes of an access through I all exist (20 R65). -/
def InRange (s : State) (n : Nat) : Prop := ∀ k, k < n → (effAddr s k).toNat < Config.memSize

/-- The first n bytes of the access exist and byte n does not: where the access raises AddressOutOfRange (60 R271). -/
def FirstOutside (s : State) (n : Nat) : Prop := InRange s n ∧ Config.memSize ≤ (effAddr s n).toNat

/-- It is the core's turn, it runs, and no stop is pending: the next step is a cycle that fetches (40 R124). -/
structure State.Fetching (s : State) : Prop where
  turn : s.turn = .core
  running : s.run = .running
  noStop : s.stopReq = false

/-- The state at the cycle boundary of a fetching core, its turn taken and a pending save served (40 R130). -/
def atBoundary (s : State) : State := serveSave (takeTurn s)

/-- The core halted with a cause and its detail (60 R266). -/
def HaltedWith (e : Err) (w : Word) (t : State) : Prop := t.run = .halted ∧ t.err = e ∧ t.errWord = w

/-- The word at PC, high byte first (20 R66). -/
def wordAtPc (s : State) : Word := wordOfBytes (s.mem.read s.pc.toNat) (s.mem.read (s.pc.toNat + 1))

/-- A running core at a jump to its own address, with no stop pending and no host event to come: the conventional end of a
program (60 R294). -/
structure State.SelfJump (s : State) : Prop where
  running : s.run = .running
  noEvents : s.schedule = []
  noStop : s.stopReq = false
  fetchable : s.pc.toNat < 0x0FFF
  jump : (wordAtPc s).toNat = 0x1000 + s.pc.toNat

/-! ## Drawing and the stack -/

/-- The sprite of `DRW Vx, Vy, n` has a bit 1 on the pixel (u, v), coordinates wrapped (43 R202, R205). -/
def SpriteOn (s : State) (x y : Reg) (n : Nibble) (u v : Nat) : Prop :=
  ∃ r j, r < n.toNat ∧ j < 8 ∧ u % 64 = ((s.reg x).toNat + j) % 64 ∧ v % 32 = ((s.reg y).toNat + r) % 32 ∧
    (s.mem.read (effAddr s r).toNat).getMsbD j = true

/-- Push the addresses in order (10 R33). -/
def pushAll : List Word → State → Option State
  | [], s => some s
  | a :: as, s =>
    match push a s with
    | some s' => pushAll as s'
    | none => none

/-- Pop n addresses (10 R34). -/
def popAll : Nat → State → Except PopError (List Word × State)
  | 0, s => .ok ([], s)
  | n + 1, s =>
    match pop s with
    | .error e => .error e
    | .ok (a, s') =>
      match popAll n s' with
      | .error e => .error e
      | .ok (as, t) => .ok (a :: as, t)

end Sys2Proof.Machine
end

