-- ==== Sys2Proof/Certificates/Slice0/Obligations.lean ====
section
/-! DEFINITION. The statements for the provers, each from numbered rules of the spec. OBLIGATIONS.json lists them with tier, basis and
citations. Where a clause rests on a decision of the spec or on a choice of the model, the docstring says so. -/

open Sys2Proof Sys2Proof.Machine

/-! ## Decoding and encoding -/

/-- 30 R97, R100: the operands placed in a word are the ones read from it, for every instruction that stands for a word, and the
byte decoder leaves the bytes that follow. The encodings are the spec's decision D7. -/
def Obligations.DecodeOfEncodeGivesTheInstruction : Prop :=
  ∀ (i : Instr) (rest : List Byte), WellFormed i →
    decodeWord (encode i) = .ok i ∧ decodeBytes (encodeBytes i ++ rest) = .ok (i, rest)

/-- 30 R100, R104: a word that decodes has one meaning, a well-formed instruction, whose encoding is the word (decision D7). -/
def Obligations.EncodeOfDecodeGivesTheWord : Prop :=
  ∀ (w : Word) (i : Instr), decodeWord w = .ok i → WellFormed i ∧ encode i = w

/-- 30 R102: the case split on the major opcode is the table of R101, tried in order (decisions D7, D8). -/
def Obligations.TableDecoderIsTheOpcodeSplit : Prop :=
  ∀ w : Word, (decodeWord w).toOption = decodeByOpcode w

/-- 30 R104: the words that match nothing, by group (decisions D6, D7). -/
def Obligations.UnmatchedWordsAreThoseListed : Prop :=
  ∀ w : Word, decodeWord w = .error (.noMatch w) ↔
    ((fieldOp w = 0x5 ∨ fieldOp w = 0x9) ∧ fieldN w ≠ 0) ∨
    (fieldOp w = 0x8 ∧ fieldN w ∈ [0x8, 0x9, 0xA, 0xB, 0xC, 0xD, 0xF]) ∨
    (fieldOp w = 0xE ∧ fieldKK w ∉ [0x9E, 0xA1]) ∨
    (fieldOp w = 0xF ∧ fieldKK w ∉ [0x07, 0x0A, 0x15, 0x18, 0x1E, 0x29, 0x33, 0x55, 0x65])

/-- 30 R99: no word but 0x00E0 and 0x00EE matches two rows, and there the first match is CLS and RET (decisions D6 to D8). -/
def Obligations.OnlyClsAndRetWordsMatchTwoRows : Prop :=
  (∀ (w : Word) (r q : Row), r ∈ table → q ∈ table → r.matchesWord w = true → q.matchesWord w = true →
    r.mnemonic = q.mnemonic ∨ w = 0x00E0 ∨ w = 0x00EE) ∧
  decodeWord 0x00E0 = .ok .cls ∧ decodeWord 0x00EE = .ok .ret

/-- The two words of the document (95 S1, S2) and one more word a family (95 E3, E8, E20, E26, E29, E33, E22), written out from
30 R101. -/
def Obligations.SpecWordsDecodeAsListed : Prop :=
  decodeWord 0x1F2A = .ok (.jpAddr 0xF2A) ∧ decodeWord 0x2EA0 = .ok (.callAddr 0xEA0) ∧
  decodeWord 0x0000 = .ok (.sysAddr 0x000) ∧ decodeWord 0x3A42 = .ok (.seVxByte 0xA 0x42) ∧
  decodeWord 0x8AB6 = .ok (.shrVxVy 0xA 0xB) ∧ decodeWord 0xA123 = .ok (.ldIAddr 0x123) ∧
  decodeWord 0xD123 = .ok (.drwVxVyN 0x1 0x2 0x3) ∧ decodeWord 0xF107 = .ok (.ldVxDt 0x1) ∧
  decodeWord 0x8AB8 = .error (.noMatch 0x8AB8)

/-! ## The cycle -/

/-- 40 R122, 20 R66: a fetch reads the byte at PC as the high byte and the one after it as the low byte, and advances PC by 2;
where one of the two does not exist it gives that address and nothing else (decision D4). -/
def Obligations.FetchReadsBigEndianAndAdvances : Prop :=
  ∀ s : State,
    (s.pc.toNat < 0x0FFF → ∃ w t, fetch s = .ok (w, t) ∧
      w.toNat = 256 * (s.mem.read s.pc.toNat).toNat + (s.mem.read (s.pc.toNat + 1)).toNat ∧
      t.pc.toNat = s.pc.toNat + 2 ∧ Frame { pc := true } s t) ∧
    (s.pc.toNat = 0x0FFF → fetch s = .error 0x1000) ∧
    (0x1000 ≤ s.pc.toNat → fetch s = .error s.pc)

/-- 40 R124: when the bytes at PC decode to i, the step of a fetching core is exec of i on the boundary state with PC advanced, and
then the end of the cycle if the core still runs. Before it the step takes the core's turn off the schedule (log entry 4) and
serves a pending save; that it does so before the fetch is the spec's decision D18. -/
def Obligations.StepRunsTheDecodedInstruction : Prop :=
  ∀ (s : State) (i : Instr), s.Fetching → s.pc.toNat < 0x0FFF → decodeWord (wordAtPc s) = .ok i →
    step s = match exec i ((atBoundary s).withPc (s.pc + 2)) with
      | .next t => .next (if t.run = .running then endOfCycle t else t)
      | .fault r => .fault r
      | .refused r => .refused r

/-- 60 R262: a word that matches no shape ends the run, with PC past it, the word recorded and everything else as at the boundary of
the cycle. That the boundary comes before the fetch, and that a pending save has been served at it, is 40 R130, the spec's decision
D18; where no save is pending the boundary state is the one before the cycle, the turn apart (log entry 4). -/
def Obligations.UnknownWordHaltsTheRun : Prop :=
  ∀ (s : State) (e : DecodeError), s.Fetching → s.pc.toNat < 0x0FFF → decodeWord (wordAtPc s) = .error e →
    ∃ t, step s = .next t ∧ HaltedWith .unknownInstruction (wordAtPc s) t ∧ t.pc = s.pc + 2 ∧
      Frame { pc := true, halt := true } (atBoundary s) t

/-- 20 R66, 60 R265: a fetch from 0x0FFF or above ends the run, PC not advanced, the first address that does not exist recorded.
That such an access is fatal is the spec's decision D4. -/
def Obligations.FetchOutsideMemoryHaltsTheRun : Prop :=
  ∀ s : State, s.Fetching → 0x0FFF ≤ s.pc.toNat →
    ∃ t, step s = .next t ∧ HaltedWith .addressOutOfRange (if s.pc = 0x0FFF then 0x1000 else s.pc) t ∧
      Frame { halt := true } (atBoundary s) t

/-- 40 R130: at a boundary a stop halts the run before any fetch and gives no snapshot, even with a save pending; a save alone
emits one snapshot of the state as it stands, clears the latch and lets the cycle go on. The order is the spec's decision D18. -/
def Obligations.StopAndSaveAreSampledAtTheBoundary : Prop :=
  (∀ s : State, s.turn = .core → s.run = .running → s.stopReq = true →
    ∃ t, step s = .next t ∧ HaltedWith .stop 0 t ∧ Frame { halt := true } (takeTurn s) t) ∧
  (∀ s : State, s.Fetching → s.saveReq = true →
    step s = step ((s.withEmitted (.snapshot (snapshot s) :: s.emitted)).withSaveReq false))

/-- 40 R129, 70 R315, 60 R293: on the core's turn a key wait that nothing has woken leaves everything as it is, timers included; a
stop ends the run with no register written; with a stop and a key either branch is taken (decision D18; log entry 7). -/
def Obligations.KeyWaitStandsStillOrStops : Prop :=
  ∀ (s : State) (x : Reg), s.turn = .core → s.run = .waitKey x →
    (s.stopReq = false → s.keyWake = false → step s = .next (takeTurn s)) ∧
    (s.stopReq = true → s.keyWake = false →
      ∃ t, step s = .next t ∧ HaltedWith .stop 0 t ∧ Frame { halt := true } (takeTurn s) t) ∧
    (s.stopReq = true → s.keyWake = true →
      ∃ t, step s = .next t ∧ t.choices = s.choices + 1 ∧
        ((HaltedWith .stop 0 t ∧ ∀ r, t.reg r = s.reg r) ∨ (t.run = .running ∧ (t.reg x).toNat = s.lastKey.toNat)))

/-- 45 R243, 40 R129: a woken wait ends with the last key in V[x] and the core running at the same PC, and the suspended cycle
counts as one: the timers tick only if this cycle completes a period (decisions D16, D17). -/
def Obligations.KeyWaitEndsWithTheLastKey : Prop :=
  ∀ (s : State) (x : Reg), s.turn = .core → s.run = .waitKey x → s.keyWake = true → s.stopReq = false →
    ∃ t, step s = .next t ∧ t.run = .running ∧ (t.reg x).toNat = s.lastKey.toNat ∧ (∀ r, r ≠ x → t.reg r = s.reg r) ∧
      t.pc = s.pc ∧ t.i = s.i ∧ t.sp = s.sp ∧ t.stack = s.stack ∧ t.mem = s.mem ∧ t.fb = s.fb ∧ t.coll = s.coll ∧
      t.keys = s.keys ∧ t.lastKey = s.lastKey ∧
      (s.cyc + 1 < s.refresh → t.cyc = s.cyc + 1 ∧ t.dt = s.dt ∧ t.st = s.st ∧ t.repaint = s.repaint) ∧
      (s.refresh ≤ s.cyc + 1 → t.cyc = 0 ∧ t.dt = countDown s.dt ∧ t.st = countDown s.st ∧ t.repaint = false)

/-- 10 R30: a tick maps a timer value t to t − 1 when t > 0 and to 0 when t = 0; a timer never wraps to 255. -/
def Obligations.TickCountsDownToZeroAndStays : Prop :=
  ∀ s : State,
    (0 < s.dt.toNat → (timerTick s).dt.toNat + 1 = s.dt.toNat) ∧ (s.dt = 0 → (timerTick s).dt = 0) ∧
    (0 < s.st.toNat → (timerTick s).st.toNat + 1 = s.st.toNat) ∧ (s.st = 0 → (timerTick s).st = 0)

/-- 40 R125, R126, 10 R47: the end of a cycle counts it; when REFRESH cycles are counted the timers count down, a pending repaint is
emitted with the grid and cleared, the count is 0 again, and nothing else changes, so CYC is below REFRESH after it. The schedule is
the spec's decision D16 (log entry 14). -/
def Obligations.EndOfCycleTicksEveryRefreshCycles : Prop :=
  ∀ s : State,
    (s.cyc + 1 < s.refresh → endOfCycle s = s.withCyc (s.cyc + 1)) ∧
    (s.refresh ≤ s.cyc + 1 → endOfCycle s =
      ((((s.withDt (countDown s.dt)).withSt (countDown s.st)).withEmitted
        (if s.repaint = true then .repaint s.fb :: s.emitted else s.emitted)).withRepaint false).withCyc 0) ∧
    (1 ≤ s.refresh → (endOfCycle s).cyc < s.refresh)

/-- 60 R269, R281, 70 R300 to R302: from Halted the core's step is the cleanup: every element at its reset value, RUN = Idle, RATE
and REFRESH kept, ERR and ERRWORD kept and reported. The host's `Reset` in Idle does the same and reports nothing. That everything is
reset is the spec's decision D23 (log entry 20); the zeros of V, I, DT, ST, the stack slots and 0x050 to 0x1FF and the glyph bytes
are its decisions D1, D2, D3 and D5 (log entries 1 to 3); that CYC is 0 is D16 (log entry 14), that `Reset` is allowed in Idle only
D28 (log entry 22). -/
def Obligations.HaltedMachineIsCleanedUp : Prop :=
  (∀ s : State, s.turn = .core → s.run = .halted →
    ∃ t, step s = .next t ∧ t.AtReset ∧ t.err = s.err ∧ t.errWord = s.errWord ∧ t.rate = s.rate ∧
      t.refresh = s.refresh ∧ t.emitted = .runEnded s.err s.errWord :: s.emitted) ∧
  (∀ s : State, s.turn = .host .reset → s.run = .idle →
    ∃ t, step s = .next t ∧ t.AtReset ∧ t.err = s.err ∧ t.errWord = s.errWord ∧ t.rate = s.rate ∧
      t.refresh = s.refresh ∧ t.emitted = s.emitted)

/-! ## Invariants -/

/-- 10 R51, 70 R301: the state of a new machine. The zeros of V, I, DT, ST, the stack and 0x050 to 0x1FF, the glyph bytes and the
codes of ERR are decisions of the spec (D1, D2, D3, D5, D19; log entries 1 to 3). -/
def Obligations.CreationStateIsTheResetTable : Prop :=
  State.reset.AtReset ∧ State.reset.rate = 500 ∧ State.reset.refresh = 8 ∧ State.reset.err = .none ∧
  State.reset.errWord = 0

/-- The state of a new machine meets the invariant. Its clauses on RATE and REFRESH rest on the spec's decision D16 (log entries 14 and
22), those on the recorded cause and its detail on D19 (log entry 20), SP as a count on D5 (log entry 2); the canonical form of
memory is the model's own. -/
def Obligations.CreationStateMeetsTheInvariant : Prop := State.reset.Inv

/-- Every step, of the core or of the host, keeps the invariant: memory canonical (the model's own form), SP in 0 to 16 (10 R32),
REFRESH the quotient of a RATE of at least 60 (10 R48, 60 R286: the spec's decision D16, log entries 14 and 22), a cause recorded
exactly while it should be and a detail only with a fatal error (10 R46, 60 R266: decision D19, log entry 20). A restore checks SP by
decision D26 (log entry 18). -/
def Obligations.EveryStepKeepsTheInvariant : Prop :=
  ∀ s t : State, s.Inv → step s = .next t → t.Inv

/-- 10 R27, 70 R319: PC stays at most 0x10FE and every stack entry at most 0x1000 in every step but a restore, which can install
any PC. It rests on `OOR_POLICY = fault`, the spec's decision D4. -/
def Obligations.EveryStepKeepsThePcBound : Prop :=
  ∀ s t : State, s.PcBound → (∀ b, s.turn ≠ .host (.restore b)) → step s = .next t → t.PcBound

/-- The core's own turn always gives a next state, in every state that meets the invariant: no fault, no refusal. In Idle and in an
unwoken key wait, where 40 R121 enables no step of the core, that next state is the model's own convention (log entry 4); that a fatal
error is a next state and not a fault rests on log entries 10 and 20 (the spec's decisions D4, D20). -/
def Obligations.CoreStepAlwaysHasANextState : Prop :=
  ∀ s : State, s.Inv → s.turn = .core → ∃ t, step s = .next t

/-- 60 R294: from a jump to its own address nothing moves any more, for any number of steps without a host event, but DT, ST, CYC,
REPAINT and SAVEREQ (and the outputs): REPAINT is consumed at a tick and a pending save is served, and neither is set again. The
encoding and the effect of JP are the spec's decisions D7 and D9 (log entry 15). -/
def Obligations.SelfJumpGoesOnForEver : Prop :=
  ∀ (s : State) (k : Nat), s.SelfJump →
    ∃ t, core.run k s = .next t ∧ t.v = s.v ∧ t.i = s.i ∧ t.pc = s.pc ∧ t.sp = s.sp ∧ t.stack = s.stack ∧
      t.mem = s.mem ∧ t.fb = s.fb ∧ t.coll = s.coll ∧ t.run = .running ∧ t.keys = s.keys ∧ t.lastKey = s.lastKey ∧
      t.keyWake = s.keyWake ∧ t.err = s.err ∧ t.errWord = s.errWord ∧ t.rate = s.rate ∧ t.refresh = s.refresh ∧
      t.stopReq = s.stopReq ∧ t.schedule = s.schedule ∧ t.draws = s.draws ∧ t.choices = s.choices ∧
      (t.repaint = true → s.repaint = true) ∧ (t.saveReq = true → s.saveReq = true) ∧
      t.dt.toNat ≤ s.dt.toNat ∧ t.st.toNat ≤ s.st.toNat

/-! ## The host's events -/

/-- 60 R283: a key release clears the bit of that key; LASTKEY and KEYWAKE are unchanged, and no wait ends. -/
def Obligations.KeyReleaseClearsItsBitAlone : Prop :=
  ∀ (s : State) (k : Nat), s.turn = .host (.keyUp k) → k < 16 →
    ∃ t, step s = .next t ∧ (∀ j, j < 16 → t.keys.getLsbD j = (if j = k then false else s.keys.getLsbD j)) ∧
      t.lastKey = s.lastKey ∧ t.keyWake = s.keyWake ∧ t.run = s.run ∧ t = (takeTurn s).withKeys t.keys

/-- 60 R282, 10 R44: a key press sets the bit of that key, records it as the last one, and wakes a pending wait. -/
def Obligations.KeyPressSetsItsBitAndWakesAWait : Prop :=
  ∀ (s : State) (k : Nat), s.turn = .host (.keyDown k) → k < 16 →
    ∃ t, step s = .next t ∧ (∀ j, j < 16 → t.keys.getLsbD j = (if j = k then true else s.keys.getLsbD j)) ∧
      t.lastKey.toNat = k ∧ ((∃ x, s.run = .waitKey x) → t.keyWake = true) ∧
      ((∀ x, s.run ≠ .waitKey x) → t.keyWake = s.keyWake) ∧ t.run = s.run ∧
      t = (((takeTurn s).withKeys t.keys).withLastKey t.lastKey).withKeyWake t.keyWake

/-- 60 R284: a stop sets the latch and nothing else, in every run state; a running core halts at its next boundary for it; `Start`
and `Cleanup` clear the latch. -/
def Obligations.StopEventOnlySetsItsLatch : Prop :=
  (∀ s : State, s.turn = .host .stop → step s = .next ((takeTurn s).withStopReq true)) ∧
  (∀ s : State, s.turn = .core → s.run = .running → s.stopReq = true → ∃ t, step s = .next t ∧ HaltedWith .stop 0 t) ∧
  (∀ s : State, s.turn = .host .start → s.run = .idle → ∃ t, step s = .next t ∧ t.stopReq = false) ∧
  (∀ s : State, s.turn = .core → s.run = .halted → ∃ t, step s = .next t ∧ t.stopReq = false)

/-- 60 R281, R285, R286: `Start` begins a run and clears the report, the count and the latches; `RequestSave` sets its latch;
`SetRate` writes RATE and its quotient and leaves CYC (decisions D16, D27). -/
def Obligations.StartSaveAndRateWriteTheirRegisters : Prop :=
  (∀ s : State, s.turn = .host .start → s.run = .idle →
    ∃ t, step s = .next t ∧ t.run = .running ∧ t.err = .none ∧ t.errWord = 0 ∧ t.cyc = 0 ∧ t.keyWake = false ∧
      t.stopReq = false ∧ t.saveReq = false ∧ (∀ r, t.reg r = s.reg r) ∧ t.i = s.i ∧ t.pc = s.pc ∧ t.dt = s.dt ∧
      t.st = s.st ∧ t.sp = s.sp ∧ t.stack = s.stack ∧ t.mem = s.mem ∧ t.fb = s.fb ∧ t.coll = s.coll ∧
      t.repaint = s.repaint ∧ t.keys = s.keys ∧ t.lastKey = s.lastKey ∧ t.rate = s.rate ∧ t.refresh = s.refresh) ∧
  (∀ s : State, s.turn = .host .requestSave → step s = .next ((takeTurn s).withSaveReq true)) ∧
  (∀ (s : State) (r : Nat), s.turn = .host (.setRate r) → 60 ≤ r →
    step s = .next (((takeTurn s).withRate r).withRefresh (r / 60)))

/-- 20 R72: a ROM image is copied to 0x200 upward and leaves every other byte; one above 3584 bytes is answered by RomTooLarge
and changes nothing. That it is allowed only in Idle is decision D28. -/
def Obligations.LoadRomCopiesTheImage : Prop :=
  ∀ (s : State) (bytes : List Byte), s.turn = .host (.loadRom bytes) → s.run = .idle → s.mem.wf →
    (bytes.length ≤ 3584 → ∃ t, step s = .next t ∧ (∀ k (h : k < bytes.length), t.mem.read (0x200 + k) = bytes[k]'h) ∧
      (∀ a, a < 0x200 ∨ 0x200 + bytes.length ≤ a → t.mem.read a = s.mem.read a) ∧ t = (takeTurn s).withMem t.mem) ∧
    (3584 < bytes.length → step s = .next (emit .romTooLarge (takeTurn s)))

/-- 60 R280, R292: an event the host's duties rule out has no meaning and is refused by name (decisions D16, D28, D29; U8, U16,
U18). -/
def Obligations.EventsOutOfPlaceAreRefused : Prop :=
  (∀ (s : State) (bytes : List Byte), s.run ≠ .idle →
    s.turn = .host .reset ∨ s.turn = .host (.loadRom bytes) ∨ s.turn = .host .start →
    step s = .refused .eventNotEnabled) ∧
  (∀ (s : State) (b : Option Blob), s.run ≠ .idle → s.run ≠ .running → s.turn = .host (.restore b) →
    step s = .refused .eventNotEnabled) ∧
  (∀ (s : State) (k : Nat), 16 ≤ k → s.turn = .host (.keyDown k) ∨ s.turn = .host (.keyUp k) →
    step s = .refused .keyIndexOutOfRange) ∧
  (∀ (s : State) (r : Nat), r < 60 → s.turn = .host (.setRate r) → step s = .refused .rateBelowMinimum)

/-- 60 R289: a restore of the snapshot of s gives the registers, stack, PC, memory, pixels and collision flag of s bit for bit,
marks the repaint and leaves the rest; a blob that is not well-formed is answered by InvalidSaveFile and changes nothing.
What is in a blob and when it is well-formed is decision D26. -/
def Obligations.SnapshotThenRestoreGivesTheStateBack : Prop :=
  (∀ s t : State, s.mem.wf → s.sp ≤ 16 → t.turn = .host (.restore (some (snapshot s))) →
    t.run = .idle ∨ t.run = .running →
    ∃ u, step t = .next u ∧ u.v = s.v ∧ u.i = s.i ∧ u.dt = s.dt ∧ u.st = s.st ∧ u.stack = s.stack ∧ u.sp = s.sp ∧
      u.pc = s.pc ∧ u.mem = s.mem ∧ u.fb = s.fb ∧ u.coll = s.coll ∧ u.repaint = true ∧ u.keys = t.keys ∧
      u.lastKey = t.lastKey ∧ u.keyWake = t.keyWake ∧ u.run = t.run ∧ u.err = t.err ∧ u.errWord = t.errWord ∧
      u.cyc = t.cyc ∧ u.rate = t.rate ∧ u.refresh = t.refresh ∧ u.stopReq = t.stopReq ∧ u.saveReq = t.saveReq) ∧
  (∀ (t : State) (b : Option Blob), t.turn = .host (.restore b) → t.run = .idle ∨ t.run = .running →
    (∀ c, b = some c → c.wf = false) → step t = .next (emit .invalidSaveFile (takeTurn t)))

/-- 10 R38: pixel (x, y) is bit 7 − (x mod 8) of byte y × 8 + (x div 8) of the packed grid, which has 256 bytes (decision D14). -/
def Obligations.PackedBitIsThePixel : Prop :=
  ∀ g : Grid, g.packed.length = 256 ∧
    ∀ x y, x < 64 → y < 32 → (g.packed.getD (y * 8 + x / 8) 0).getLsbD (7 - x % 8) = g.pixel x y

/-! ## Memory and the stack -/

/-- 20 R64: a write changes exactly one byte and nothing else; above 0x0FFF it raises, with the address. -/
def Obligations.StoreChangesExactlyOneByte : Prop :=
  ∀ (s : State) (a : Word) (v : Byte), s.mem.wf →
    (a.toNat ≤ 0x0FFF → ∃ t, memWrite a v s = .ok t ∧ t.mem.read a.toNat = v ∧ t.mem.wf ∧
      Frame { cells := [a.toNat] } s t) ∧
    (0x0FFF < a.toNat → memWrite a v s = .error a)

/-- 10 R33: a push at capacity fails; otherwise it stores the address and advances the pointer. -/
def Obligations.PushStoresTheAddressOrOverflows : Prop :=
  ∀ (s : State) (a : Word),
    (s.sp < 16 → ∃ t, push a s = some t ∧ t.stack[s.sp]? = some a ∧ t.sp = s.sp + 1 ∧
      Frame { sp := true, slots := [s.sp] } s t) ∧
    (s.sp = 16 → push a s = none)

/-- 10 R34, 95 S3: values pushed come back in reverse order, up to the capacity of 16; a push beyond it and a pop from an empty
stack fail. That a popped slot keeps its value is decision D5. -/
def Obligations.PushedAddressesPopInReverse : Prop :=
  (∀ (s : State) (as : List Word), s.sp + as.length ≤ 16 →
    ∃ t, pushAll as s = some t ∧ t.sp = s.sp + as.length ∧
      popAll as.length t = .ok (as.reverse, t.withSp s.sp)) ∧
  (∀ (s : State) (as : List Word), s.sp ≤ 16 → 16 < s.sp + as.length → pushAll as s = none) ∧
  (∀ s : State, s.sp = 0 → pop s = .error .underflow)

/-! ## Control transfer -/

/-- 41 R150, R152: SYS does nothing (decision D6, log entry 9); JP sets PC to its address (decision D9). -/
def Obligations.SysAndJumpTouchPcAtMost : Prop :=
  ∀ (s : State) (nnn : Addr12),
    (∃ t, exec (.sysAddr nnn) s = .next t ∧ Frame {} s t) ∧
    (∃ t, exec (.jpAddr nnn) s = .next t ∧ t.pc.toNat = nnn.toNat ∧ Frame { pc := true } s t)

/-- 41 R158: PC = addr + V[0], always V[0], at most 0x10FE, so that the 16-bit wrap never occurs. -/
def Obligations.JumpPlusV0AddsV0ToTheAddress : Prop :=
  ∀ (s : State) (nnn : Addr12), ∃ t, exec (.jpV0Addr nnn) s = .next t ∧
    t.pc.toNat = nnn.toNat + (s.reg 0).toNat ∧ t.pc.toNat ≤ 0x10FE ∧ Frame { pc := true } s t

/-- 41 R156, R157: the register compares skip the next instruction, 2 bytes, exactly when their test holds. -/
def Obligations.RegisterComparesSkipOnTheirTest : Prop :=
  ∀ (s : State) (x y : Reg),
    (∃ t, exec (.seVxVy x y) s = .next t ∧ Frame { pc := true } s t ∧
      t.pc.toNat = (s.pc.toNat + (if s.reg x = s.reg y then 2 else 0)) % 65536) ∧
    (∃ t, exec (.sneVxVy x y) s = .next t ∧ Frame { pc := true } s t ∧
      t.pc.toNat = (s.pc.toNat + (if s.reg x = s.reg y then 0 else 2)) % 65536)

/-- 41 R154, R155, 45 R240, R241, R247: the compares with a byte and the key tests skip exactly when their test holds; an index
above 15 is no key. Their effects are decision D9, the index above 15 decision D15 (log entries 13, 15). -/
def Obligations.ByteComparesAndKeyTestsSkip : Prop :=
  ∀ (s : State) (x : Reg) (kk : Byte),
    (∃ t, exec (.seVxByte x kk) s = .next t ∧ Frame { pc := true } s t ∧
      t.pc.toNat = (s.pc.toNat + (if s.reg x = kk then 2 else 0)) % 65536) ∧
    (∃ t, exec (.sneVxByte x kk) s = .next t ∧ Frame { pc := true } s t ∧
      t.pc.toNat = (s.pc.toNat + (if s.reg x = kk then 0 else 2)) % 65536) ∧
    (∃ t, exec (.skpVx x) s = .next t ∧ Frame { pc := true } s t ∧
      t.pc.toNat = (s.pc.toNat + (if (s.reg x).toNat < 16 ∧ s.keys.getLsbD (s.reg x).toNat = true then 2 else 0)) % 65536) ∧
    (∃ t, exec (.sknpVx x) s = .next t ∧ Frame { pc := true } s t ∧
      t.pc.toNat = (s.pc.toNat + (if (s.reg x).toNat < 16 ∧ s.keys.getLsbD (s.reg x).toNat = true then 0 else 2)) % 65536)

/-- 41 R153: a call pushes the address of the instruction that follows and jumps; with the stack full nothing is pushed, PC is not
the target and the run halts. -/
def Obligations.CallPushesTheReturnAddress : Prop :=
  ∀ (s : State) (nnn : Addr12),
    (s.sp < 16 → ∃ t, exec (.callAddr nnn) s = .next t ∧ t.stack[s.sp]? = some s.pc ∧ t.sp = s.sp + 1 ∧
      t.pc.toNat = nnn.toNat ∧ Frame { pc := true, sp := true, slots := [s.sp] } s t) ∧
    (s.sp = 16 → ∃ t, exec (.callAddr nnn) s = .next t ∧ HaltedWith .stackOverflow (0x2000 ||| nnn.setWidth 16) t ∧
      Frame { halt := true } s t)

/-- 41 R151: a return pops the newest address into PC, all 16 bits; with the stack empty SP stays 0, PC keeps its value and the run
halts. -/
def Obligations.RetPopsTheReturnAddress : Prop :=
  ∀ s : State,
    (1 ≤ s.sp → s.sp ≤ 16 → ∃ t, exec .ret s = .next t ∧ s.stack[s.sp - 1]? = some t.pc ∧ t.sp + 1 = s.sp ∧
      Frame { pc := true, sp := true } s t) ∧
    (s.sp = 0 → ∃ t, exec .ret s = .next t ∧ HaltedWith .stackUnderflow 0x00EE t ∧ Frame { halt := true } s t)

/-! ## Registers and arithmetic -/

/-- 42 R170, R172, 44 R220, 45 R244 to R246: each move writes its source to its one destination and nothing else. Their effects are
decision D9 (log entry 15). -/
def Obligations.MovesWriteTheirOneDestination : Prop :=
  ∀ (s : State) (x y : Reg) (kk : Byte) (nnn : Addr12),
    (∃ t, exec (.ldVxByte x kk) s = .next t ∧ t.reg x = kk ∧ Frame { regs := [x] } s t) ∧
    (∃ t, exec (.ldVxVy x y) s = .next t ∧ t.reg x = s.reg y ∧ Frame { regs := [x] } s t) ∧
    (∃ t, exec (.ldVxDt x) s = .next t ∧ t.reg x = s.dt ∧ Frame { regs := [x] } s t) ∧
    (∃ t, exec (.ldDtVx x) s = .next t ∧ t.dt = s.reg x ∧ Frame { dt := true } s t) ∧
    (∃ t, exec (.ldStVx x) s = .next t ∧ t.st = s.reg x ∧ Frame { st := true } s t) ∧
    (∃ t, exec (.ldIAddr nnn) s = .next t ∧ t.i.toNat = nnn.toNat ∧ Frame { i := true } s t)

/-- 42 R171, R173 to R175: the add of a byte wraps, the logic works on each of the 8 bits, and none of them writes VF unless it is
the destination. Their effects are decision D9 (log entry 15). -/
def Obligations.AddByteAndLogicLeaveTheFlag : Prop :=
  ∀ (s : State) (x y : Reg) (kk : Byte),
    (∃ t, exec (.addVxByte x kk) s = .next t ∧ (t.reg x).toNat = ((s.reg x).toNat + kk.toNat) % 256 ∧
      Frame { regs := [x] } s t) ∧
    (∃ t, exec (.orVxVy x y) s = .next t ∧ Frame { regs := [x] } s t ∧
      ∀ k, k < 8 → (t.reg x).getLsbD k = ((s.reg x).getLsbD k || (s.reg y).getLsbD k)) ∧
    (∃ t, exec (.andVxVy x y) s = .next t ∧ Frame { regs := [x] } s t ∧
      ∀ k, k < 8 → (t.reg x).getLsbD k = ((s.reg x).getLsbD k && (s.reg y).getLsbD k)) ∧
    (∃ t, exec (.xorVxVy x y) s = .next t ∧ Frame { regs := [x] } s t ∧
      ∀ k, k < 8 → (t.reg x).getLsbD k = ((s.reg x).getLsbD k ^^ (s.reg y).getLsbD k))

/-- 42 R177: the sum modulo 256 in V[x], and in VF 1 exactly when the sum is above 255. With x = 15 the result stays in VF and the
flag is lost: decision D10 (log entry 12). -/
def Obligations.AddSetsSumAndCarry : Prop :=
  ∀ (s : State) (x y : Reg), ∃ t, exec (.addVxVy x y) s = .next t ∧ Frame { regs := [x, vf] } s t ∧
    (t.reg x).toNat = ((s.reg x).toNat + (s.reg y).toNat) % 256 ∧
    (x ≠ vf → (t.reg vf).toNat = if 255 < (s.reg x).toNat + (s.reg y).toNat then 1 else 0)

/-- 42 R178, R180: the difference modulo 256 in V[x], and in VF 1 exactly when the first operand is strictly greater; equal operands
give 0 by decision D11 (log entry 11). With x = 15 the result stays in VF: decision D10 (log entry 12). -/
def Obligations.SubtractionsSetDifferenceAndNotBorrow : Prop :=
  ∀ (s : State) (x y : Reg),
    (∃ t, exec (.subVxVy x y) s = .next t ∧ Frame { regs := [x, vf] } s t ∧
      (t.reg x).toNat = (256 + (s.reg x).toNat - (s.reg y).toNat) % 256 ∧
      (x ≠ vf → (t.reg vf).toNat = if (s.reg y).toNat < (s.reg x).toNat then 1 else 0)) ∧
    (∃ t, exec (.subnVxVy x y) s = .next t ∧ Frame { regs := [x, vf] } s t ∧
      (t.reg x).toNat = (256 + (s.reg y).toNat - (s.reg x).toNat) % 256 ∧
      (x ≠ vf → (t.reg vf).toNat = if (s.reg x).toNat < (s.reg y).toNat then 1 else 0))

/-- 42 R179, R181: V[x] moves by one position in place, whatever y is, and VF is the bit shifted out. With x = 15 the result stays
in VF: the spec's decision D10 (log entry 12). -/
def Obligations.ShiftsMoveOneBitIntoTheFlag : Prop :=
  ∀ (s : State) (x y : Reg),
    (∃ t, exec (.shrVxVy x y) s = .next t ∧ Frame { regs := [x, vf] } s t ∧
      (t.reg x).toNat = (s.reg x).toNat / 2 ∧ (x ≠ vf → (t.reg vf).toNat = (s.reg x).toNat % 2)) ∧
    (∃ t, exec (.shlVxVy x y) s = .next t ∧ Frame { regs := [x, vf] } s t ∧
      (t.reg x).toNat = (s.reg x).toNat * 2 % 256 ∧ (x ≠ vf → (t.reg vf).toNat = (s.reg x).toNat / 128))

/-- 42 R182, 60 R290: V[x] = random byte AND kk. The byte is a free value and the count of draws the model's own (log entry 6, the
spec's decision D21), so this holds for every byte; each execution draws a new one, and every bit outside kk is 0 for certain. -/
def Obligations.RandomByteIsMasked : Prop :=
  ∀ (s : State) (x : Reg) (kk : Byte), ∃ t, exec (.rndVx x kk) s = .next t ∧
    t.reg x = (Config.rand s.draws &&& kk) ∧ t.draws = s.draws + 1 ∧
    (∀ k, kk.getLsbD k = false → (t.reg x).getLsbD k = false) ∧ Frame { regs := [x], draws := true } s t

/-- 44 R221, 43 R204: I + V[x] wraps at 16 bits and leaves VF (decision D9); LD F multiplies the whole byte by 5 (decision D15). -/
def Obligations.IndexArithmeticWrapsInSixteenBits : Prop :=
  ∀ (s : State) (x : Reg),
    (∃ t, exec (.addIVx x) s = .next t ∧ t.i.toNat = (s.i.toNat + (s.reg x).toNat) % 65536 ∧ Frame { i := true } s t) ∧
    (∃ t, exec (.ldFVx x) s = .next t ∧ t.i.toNat = (s.reg x).toNat * 5 ∧ Frame { i := true } s t)

/-! ## The framebuffer -/

/-- 43 R200, R201: CLS darkens every pixel and clears the collision and the repaint-pending flag, and does nothing more: VF is
unchanged. A reset and the cleanup after a run leave the framebuffer so too. -/
def Obligations.ClsClearsTheScreenAndItsFlags : Prop :=
  (∀ s : State, ∃ t, exec .cls s = .next t ∧ (∀ x y, t.fb.pixel x y = false) ∧ t.coll = false ∧ t.repaint = false ∧
    Frame { screen := true } s t) ∧
  (∀ s : State, (s.turn = .host .reset ∧ s.run = .idle) ∨ (s.turn = .core ∧ s.run = .halted) →
    ∃ t, step s = .next t ∧ (∀ x y, t.fb.pixel x y = false) ∧ t.coll = false ∧ t.repaint = false)

/-- 43 R203, R205, R206: a draw whose rows all exist turns over exactly the pixels its sprite has a bit 1 on, wrapped at the edges;
VF is 1 exactly when one of them was lit before; COLL is that flag; REPAINT is set when a row is drawn. That n counts the rows,
0 drawing nothing, is decision D13 (log entry 16), that every row sets REPAINT decision D25. -/
def Obligations.DrawTurnsOverTheSpritePixels : Prop :=
  ∀ (s : State) (x y : Reg) (n : Nibble), InRange s n.toNat →
    ∃ t, exec (.drwVxVyN x y n) s = .next t ∧
      (∀ u v, t.fb.pixel u v = true ↔ Xor (s.fb.pixel u v = true) (SpriteOn s x y n u v)) ∧
      (t.coll = true ↔ ∃ u v, s.fb.pixel u v = true ∧ SpriteOn s x y n u v) ∧
      (t.reg vf).toNat = (if t.coll = true then 1 else 0) ∧ (t.repaint = true ↔ s.repaint = true ∨ n ≠ 0) ∧
      Frame { regs := [vf], screen := true } s t

/-- 43 R203, 95 S5: drawing the same sprite twice at the same place restores every pixel; on a dark screen the second draw reports
a collision exactly when the sprite has a bit 1. That n counts the rows, 0 drawing nothing, is the spec's decision D13 (log entry
16). (The coordinates are not in VF, which the first draw writes.) -/
def Obligations.DrawingTwiceRestoresTheScreen : Prop :=
  ∀ (s : State) (x y : Reg) (n : Nibble), x ≠ vf → y ≠ vf → InRange s n.toNat →
    ∃ t u, exec (.drwVxVyN x y n) s = .next t ∧ exec (.drwVxVyN x y n) t = .next u ∧ u.fb = s.fb ∧
      ((∀ a b, s.fb.pixel a b = false) → (u.reg vf = 1 ↔ ∃ a b, SpriteOn s x y n a b))

/-- 43 R203, 60 R265, R271: a draw whose row m is the first that does not exist draws the rows before it, writes no VF, and ends the
run with the address of that row. The error is decision D4 (log entry 10). -/
def Obligations.DrawOutsideMemoryHaltsAfterItsRows : Prop :=
  ∀ (s : State) (x y : Reg) (n : Nibble) (m : Nat), m < n.toNat → FirstOutside s m →
    ∃ u, drawRows (s.reg x).toNat (s.reg y).toNat (List.range m) (s.withColl false) = .ok u ∧ (∀ r, u.reg r = s.reg r) ∧
      exec (.drwVxVyN x y n) s = .next (raise .addressOutOfRange (effAddr s m) u)

/-- 43 R202, R205, R206: drawing a sprite row pixel by pixel is the exclusive or of the screen row with the sprite byte, left
aligned and rotated right by the column; there is a collision exactly when the two overlap. -/
def Obligations.RowDrawIsOneExclusiveOr : Prop :=
  ∀ (s : State) (x y : Nat) (b : Byte),
    let mask : BitVec 64 := ((b.setWidth 64) <<< 56).rotateRight (x % 64)
    (∀ v, (drawByte x y b s).fb.row v = if v % 32 = y % 32 then s.fb.row v ^^^ mask else s.fb.row v) ∧
    (drawByte x y b s).coll = (s.coll || s.fb.row y &&& mask != 0)

/-! ## Loads and stores -/

/-- 44 R222, R225: three bytes that exist get the hundreds, tens and ones of V[x]; every other byte and I are unchanged (decision
D12, log entry 16). -/
def Obligations.BcdStoresThreeDigits : Prop :=
  ∀ (s : State) (x : Reg), InRange s 3 → s.mem.wf →
    ∃ t, exec (.ldBVx x) s = .next t ∧
      (t.mem.read (effAddr s 0).toNat).toNat * 100 + (t.mem.read (effAddr s 1).toNat).toNat * 10 +
        (t.mem.read (effAddr s 2).toNat).toNat = (s.reg x).toNat ∧
      (t.mem.read (effAddr s 1).toNat).toNat ≤ 9 ∧ (t.mem.read (effAddr s 2).toNat).toNat ≤ 9 ∧
      Frame { cells := accessCells s 3 } s t

/-- 44 R223, R225: V[0] to V[x] inclusive are stored at I upward; every other byte and I are unchanged (decision D12). -/
def Obligations.DumpStoresTheRegisters : Prop :=
  ∀ (s : State) (x : Reg), InRange s (x.toNat + 1) → s.mem.wf →
    ∃ t, exec (.ldIVx x) s = .next t ∧
      (∀ k, k ≤ x.toNat → t.mem.read (effAddr s k).toNat = s.reg (regOf k)) ∧
      Frame { cells := accessCells s (x.toNat + 1) } s t

/-- 44 R224, R225: V[0] to V[x] inclusive are loaded from I upward; registers above x, memory and I are unchanged (decision D12). -/
def Obligations.LoadFillsTheRegisters : Prop :=
  ∀ (s : State) (x : Reg), InRange s (x.toNat + 1) →
    ∃ t, exec (.ldVxI x) s = .next t ∧
      (∀ k, k ≤ x.toNat → t.reg (regOf k) = s.mem.read (effAddr s k).toNat) ∧
      (∀ r : Reg, x < r → t.reg r = s.reg r) ∧ Frame { regs := (upTo x).map regOf } s t

/-- 60 R265, R271, 44 R222 to R224: an access whose byte m is the first that does not exist keeps the bytes or registers before it
and ends the run with that address. The error is decision D4 (log entry 10). -/
def Obligations.BlockAccessOutsideMemoryHaltsPartWay : Prop :=
  ∀ (s : State) (x : Reg) (m : Nat), FirstOutside s m →
    (m < 3 → ∃ u, storeBytes 0 ((bcdDigits (s.reg x)).take m) s = .ok u ∧
      exec (.ldBVx x) s = .next (raise .addressOutOfRange (effAddr s m) u)) ∧
    (m ≤ x.toNat → ∃ u, storeBytes 0 ((dumpBytes x s).take m) s = .ok u ∧
      exec (.ldIVx x) s = .next (raise .addressOutOfRange (effAddr s m) u)) ∧
    (m ≤ x.toNat → ∃ u, loadRegs (List.range m) s = .ok u ∧
      exec (.ldVxI x) s = .next (raise .addressOutOfRange (effAddr s m) u))

/-! ## Keys, and all instructions at once -/

/-- 45 R242: LD Vx, K begins a wait for a key that is not held yet, and changes nothing else (decision D17, log entry 19). -/
def Obligations.KeyWaitBegins : Prop :=
  ∀ (s : State) (x : Reg), ∃ t, exec (.ldVxK x) s = .next t ∧ t.run = .waitKey x ∧ t.keyWake = false ∧
    Frame { wait := true } s t

/-- 20 R62, 10 R22, R26, R31, R37, R39, 60 R272: over all instructions, nothing changes but what the instruction's own rule names:
only LD B and LD [I] write memory, only CALL and RET move the stack, only CLS and DRW touch the screen, only the six flag shapes
write VF beside their destination, and no instruction touches the keys, the clock or the latches. That SYS changes nothing is the
spec's decision D6 (log entry 9), that the logic shapes, ADD with a byte and ADD I leave VF D9 (log entry 15), that I stays in LD B,
LD [I], LD Vx, [I] and DRW D12 (log entry 16), that only an access above 0x0FFF halts them D4 (log entry 10), and that a popped
slot keeps its value D5 (log entry 2). -/
def Obligations.EveryInstructionKeepsItsFrame : Prop :=
  ∀ (i : Instr) (s t : State), s.mem.wf → exec i s = .next t → Frame (touched i s) s t

/-- 60 R261, 40 R133: every instruction has a next state in every state with SP at most 16, and ends the run only as the cause table
says. That an address above 0x0FFF ends the run is the spec's decision D4 (log entry 10), that SYS never does D6 (log entry 9). (RET
with SP above 16, a state 10 R32 rules out, is the model's one fault: log entry 8.) -/
def Obligations.InstructionsHaltOnlyAsListed : Prop :=
  ∀ (i : Instr) (s : State),
    (s.sp ≤ 16 → ∃ t, exec i s = .next t) ∧
    (16 < s.sp → exec .ret s = .fault .stackPointerOutOfRange) ∧
    (∀ t, exec i s = .next t → s.run ≠ .halted → t.run = .halted →
      (∃ nnn, i = .callAddr nnn ∧ 16 ≤ s.sp ∧ t.err = .stackOverflow) ∨
      (i = .ret ∧ s.sp = 0 ∧ t.err = .stackUnderflow) ∨
      ((∃ x, i = .ldBVx x ∨ i = .ldIVx x ∨ i = .ldVxI x ∨ ∃ y n, i = .drwVxVyN x y n) ∧
        t.err = .addressOutOfRange ∧ 0x0FFF < t.errWord.toNat))

/-- 10 R29, 60 R276: no instruction reads ST, and CYC is invisible to instructions: with other values of the two an instruction
does the same to everything else. -/
def Obligations.SoundTimerAndCycleCountAreNeverRead : Prop :=
  ∀ (i : Instr) (s t : State) (b : Byte) (c : Nat), exec i s = .next t →
    ∃ u, exec i ((s.withSt b).withCyc c) = .next u ∧ (u.withSt t.st).withCyc t.cyc = t
end

