-- ==== Sys2Proof/Laws/Params.lean ====
section
/-! SUPPORT. The parameters at the values the model hard-wires (00 R7), for simp: a proof that cites one of these depends on that
value. -/

namespace Sys2Proof.Machine

@[simp] theorem Params.sysEffect_eq : Params.sysEffect = .nop := rfl
@[simp] theorem Params.oorPolicy_eq : Params.oorPolicy = .fault := rfl
@[simp] theorem Params.subEqFlag_eq : Params.subEqFlag = false := rfl
@[simp] theorem Params.vfOrder_eq : Params.vfOrder = .flagThenResult := rfl
@[simp] theorem Params.keyHigh_eq : Params.keyHigh = .false := rfl

/-- The glyph table has its 80 bytes, so every address from 0x050 up is 0 after reset. -/
theorem Params.glyphs_length : Params.glyphs.length = 80 := by decide

theorem resetMemByte_of_ge {a : Nat} (h : 80 ≤ a) : resetMemByte a = 0 := by
  simp [resetMemByte, Params.glyphs_length, h]

end Sys2Proof.Machine
end

