-- ==== Sys2Proof/Laws/Memory.lean ====
section
/-! SUPPORT. Memory as data: the canonical form is kept by every operation, a read after a write gives the value written and a
write leaves every other byte alone, and memories in canonical form that read alike are equal. -/

namespace Sys2Proof.Machine

@[simp] theorem Memory.read_nil (a : Nat) : Memory.read [] a = resetMemByte a := rfl

theorem Memory.read_cons (b : Nat) (w : Byte) (m : Memory) (a : Nat) :
    Memory.read ((b, w) :: m) a = if a = b then w else Memory.read m a := rfl

theorem Memory.wf_nil : Memory.wf [] := by simp [Memory.wf]

theorem Memory.wf_cons {c : Host.Cell} {m : Memory} :
    Memory.wf (c :: m) ↔ (∀ d ∈ m, c.1 < d.1) ∧ c.1 < Config.memSize ∧ c.2 ≠ resetMemByte c.1 ∧ Memory.wf m := by
  simp only [Memory.wf, List.pairwise_cons, List.forall_mem_cons]
  tauto

theorem Memory.wf.tail {c : Host.Cell} {m : Memory} (h : Memory.wf (c :: m)) : Memory.wf m := (Memory.wf_cons.1 h).2.2.2

/-- Below every listed address a memory reads as after reset. -/
theorem Memory.read_of_lt {m : Memory} {a : Nat} (h : ∀ d ∈ m, a < d.1) : m.read a = resetMemByte a := by
  induction m with
  | nil => rfl
  | cons c m ih =>
    obtain ⟨b, w⟩ := c
    have hb : a < b := h (b, w) (by simp)
    rw [Memory.read_cons, if_neg (by omega)]
    exact ih fun d hd => h d (by simp [hd])

theorem Memory.mem_cons {a : Nat} {v : Byte} {m : Memory} {d : Host.Cell} (h : d ∈ Memory.cons a v m) :
    d = (a, v) ∨ d ∈ m := by
  unfold Memory.cons at h
  split at h
  · exact .inr h
  · simpa using h

/-- A written memory lists the address written and addresses it listed before. -/
theorem Memory.mem_write {m : Memory} {a : Nat} {v : Byte} {d : Host.Cell} (h : d ∈ m.write a v) :
    d = (a, v) ∨ d ∈ m := by
  induction m with
  | nil => exact Memory.mem_cons h
  | cons c m ih =>
    obtain ⟨b, w⟩ := c
    simp only [Memory.write] at h
    split at h
    · exact Memory.mem_cons h
    · split at h
      · exact (Memory.mem_cons h).imp_right (List.mem_cons_of_mem _)
      · rcases List.mem_cons.1 h with rfl | h
        · exact .inr (by simp)
        · exact (ih h).imp_right (List.mem_cons_of_mem _)

theorem Memory.wf_consCell {m : Memory} {a : Nat} {v : Byte} (ha : a < Config.memSize) (hm : m.wf)
    (hlt : ∀ d ∈ m, a < d.1) : (Memory.cons a v m).wf := by
  unfold Memory.cons
  split
  · exact hm
  · exact Memory.wf_cons.2 ⟨hlt, ha, by assumption, hm⟩

/-- A write inside the 4096 bytes keeps the canonical form. -/
theorem Memory.wf_write {m : Memory} {a : Nat} {v : Byte} (ha : a < Config.memSize) (hm : m.wf) : (m.write a v).wf := by
  induction m with
  | nil => exact Memory.wf_consCell ha hm (by simp)
  | cons c m ih =>
    obtain ⟨b, w⟩ := c
    obtain ⟨hlt, hb, hw, hm'⟩ := Memory.wf_cons.1 hm
    simp only [Memory.write]
    split
    · refine Memory.wf_consCell ha hm fun d hd => ?_
      rcases List.mem_cons.1 hd with rfl | hd
      · assumption
      · exact Nat.lt_trans (by assumption) (hlt d hd)
    · split
      · exact Memory.wf_consCell ha hm' fun d hd => by have := hlt d hd; simp_all
      · refine Memory.wf_cons.2 ⟨fun d hd => ?_, hb, hw, ih hm'⟩
        rcases Memory.mem_write hd with rfl | hd
        · simp only; omega
        · exact hlt d hd

theorem Memory.read_consCell (m : Memory) (a : Nat) (v : Byte) (hlt : ∀ d ∈ m, a < d.1) (b : Nat) :
    (Memory.cons a v m).read b = if b = a then v else m.read b := by
  unfold Memory.cons
  split
  · rename_i hv
    split
    · rename_i hba
      rw [hba, Memory.read_of_lt hlt, hv]
    · rfl
  · rfl

/-- A read after a write: the byte written at its address, every other byte as before. -/
theorem Memory.read_write {m : Memory} (hm : m.wf) (a : Nat) (v : Byte) (b : Nat) :
    (m.write a v).read b = if b = a then v else m.read b := by
  induction m with
  | nil => exact Memory.read_consCell [] a v (by simp) b
  | cons c m ih =>
    obtain ⟨c, w⟩ := c
    obtain ⟨hlt, -, -, hm'⟩ := Memory.wf_cons.1 hm
    simp only [Memory.write]
    split
    · exact Memory.read_consCell _ a v (fun d hd => by
        rcases List.mem_cons.1 hd with rfl | hd
        · assumption
        · exact Nat.lt_trans (by assumption) (hlt d hd)) b
    · split
      · rename_i hac
        subst hac
        rw [Memory.read_consCell m a v (fun d hd => hlt d hd), Memory.read_cons]
        split <;> rfl
      · rw [Memory.read_cons, Memory.read_cons, ih hm']
        split
        · rename_i hbc
          rw [if_neg (by omega)]
        · rfl

/-- Memories in canonical form that read alike are equal. -/
theorem Memory.ext {m n : Memory} (hm : m.wf) (hn : n.wf) (h : ∀ a, m.read a = n.read a) : m = n := by
  induction m generalizing n with
  | nil =>
    cases n with
    | nil => rfl
    | cons c n =>
      have h1 := h c.1
      obtain ⟨-, -, hw, -⟩ := Memory.wf_cons.1 hn
      rw [Memory.read_nil, Memory.read_cons, if_pos rfl] at h1
      exact absurd h1.symm hw
  | cons c m ih =>
    obtain ⟨hlt, -, hw, hm'⟩ := Memory.wf_cons.1 hm
    cases n with
    | nil =>
      have h1 := h c.1
      rw [Memory.read_nil, Memory.read_cons, if_pos rfl] at h1
      exact absurd h1 hw
    | cons d n =>
      obtain ⟨hlt', -, hw', hn'⟩ := Memory.wf_cons.1 hn
      have hcd : c.1 = d.1 := by
        rcases Nat.lt_trichotomy c.1 d.1 with hc | hc | hc
        · have h1 := h c.1
          rw [Memory.read_cons, if_pos rfl, Memory.read_of_lt (m := d :: n)] at h1
          · exact absurd h1 hw
          · intro e he
            rcases List.mem_cons.1 he with rfl | he
            · exact hc
            · exact Nat.lt_trans hc (hlt' e he)
        · exact hc
        · have h1 := h d.1
          rw [Memory.read_cons d.1, if_pos rfl, Memory.read_of_lt (m := c :: m)] at h1
          · exact absurd h1.symm hw'
          · intro e he
            rcases List.mem_cons.1 he with rfl | he
            · exact hc
            · exact Nat.lt_trans hc (hlt e he)
      have hval : c.2 = d.2 := by
        have h1 := h c.1
        rwa [Memory.read_cons, if_pos rfl, Memory.read_cons d.1, if_pos hcd] at h1
      have hc : c = d := Prod.ext hcd hval
      subst hc
      refine congrArg (c :: ·) (ih hm' hn' fun a => ?_)
      by_cases ha : a = c.1
      · subst ha
        rw [Memory.read_of_lt hlt, Memory.read_of_lt hlt']
      · have h1 := h a
        rwa [Memory.read_cons, if_neg ha, Memory.read_cons, if_neg ha] at h1

/-- Writing consecutive bytes inside the 4096 keeps the canonical form. -/
theorem Memory.wf_writeAll {bs : List Byte} {a : Nat} {m : Memory} (ha : a + bs.length ≤ Config.memSize) (hm : m.wf) :
    (m.writeAll a bs).wf := by
  induction bs generalizing a m with
  | nil => exact hm
  | cons b bs ih =>
    rw [List.length_cons] at ha
    exact ih (by omega) (Memory.wf_write (by omega) hm)

/-- After writing consecutive bytes, byte k of them is at address a + k and every other address is as before. -/
theorem Memory.read_writeAll {bs : List Byte} {a : Nat} {m : Memory} (ha : a + bs.length ≤ Config.memSize) (hm : m.wf)
    (b : Nat) : (m.writeAll a bs).read b = if a ≤ b ∧ b < a + bs.length then bs.getD (b - a) 0 else m.read b := by
  induction bs generalizing a m with
  | nil => rw [if_neg (by simp)]; rfl
  | cons c bs ih =>
    rw [List.length_cons] at ha
    rw [Memory.writeAll, ih (by omega) (Memory.wf_write (by omega) hm), Memory.read_write hm]
    rcases Nat.lt_trichotomy b a with h | h | h
    · rw [if_neg (by omega), if_neg (by omega), if_neg (by simp; omega)]
    · subst h
      simp
    · obtain ⟨j, rfl⟩ := Nat.exists_eq_add_of_lt h
      have hj : a + j + 1 - a = j + 1 := by omega
      have hj' : a + j + 1 - (a + 1) = j := by omega
      rw [hj, hj', List.getD_cons_succ, if_neg (show ¬ a + j + 1 = a by omega)]
      have hc : (a + 1 ≤ a + j + 1 ∧ a + j + 1 < a + 1 + bs.length) ↔
          (a ≤ a + j + 1 ∧ a + j + 1 < a + (c :: bs).length) := by
        rw [List.length_cons]; omega
      simp only [hc]

end Sys2Proof.Machine
end

