-- ==== Sys2Proof/Laws/State.lean ====
section
/-! SUPPORT. What each update of State leaves in each field: true by rfl, for simp, so that no proof unfolds a record update.
Two states are equal when their fields are (State.ext). -/

namespace Sys2Proof.Machine.State

variable (s : State)

@[simp] theorem withV_v (a : Vector Byte 16) : (s.withV a).v = a := rfl
@[simp] theorem withV_i (a : Vector Byte 16) : (s.withV a).i = s.i := rfl
@[simp] theorem withV_pc (a : Vector Byte 16) : (s.withV a).pc = s.pc := rfl
@[simp] theorem withV_dt (a : Vector Byte 16) : (s.withV a).dt = s.dt := rfl
@[simp] theorem withV_st (a : Vector Byte 16) : (s.withV a).st = s.st := rfl
@[simp] theorem withV_stack (a : Vector Byte 16) : (s.withV a).stack = s.stack := rfl
@[simp] theorem withV_sp (a : Vector Byte 16) : (s.withV a).sp = s.sp := rfl
@[simp] theorem withV_mem (a : Vector Byte 16) : (s.withV a).mem = s.mem := rfl
@[simp] theorem withV_fb (a : Vector Byte 16) : (s.withV a).fb = s.fb := rfl
@[simp] theorem withV_coll (a : Vector Byte 16) : (s.withV a).coll = s.coll := rfl
@[simp] theorem withV_repaint (a : Vector Byte 16) : (s.withV a).repaint = s.repaint := rfl
@[simp] theorem withV_keys (a : Vector Byte 16) : (s.withV a).keys = s.keys := rfl
@[simp] theorem withV_lastKey (a : Vector Byte 16) : (s.withV a).lastKey = s.lastKey := rfl
@[simp] theorem withV_keyWake (a : Vector Byte 16) : (s.withV a).keyWake = s.keyWake := rfl
@[simp] theorem withV_run (a : Vector Byte 16) : (s.withV a).run = s.run := rfl
@[simp] theorem withV_err (a : Vector Byte 16) : (s.withV a).err = s.err := rfl
@[simp] theorem withV_errWord (a : Vector Byte 16) : (s.withV a).errWord = s.errWord := rfl
@[simp] theorem withV_cyc (a : Vector Byte 16) : (s.withV a).cyc = s.cyc := rfl
@[simp] theorem withV_rate (a : Vector Byte 16) : (s.withV a).rate = s.rate := rfl
@[simp] theorem withV_refresh (a : Vector Byte 16) : (s.withV a).refresh = s.refresh := rfl
@[simp] theorem withV_stopReq (a : Vector Byte 16) : (s.withV a).stopReq = s.stopReq := rfl
@[simp] theorem withV_saveReq (a : Vector Byte 16) : (s.withV a).saveReq = s.saveReq := rfl
@[simp] theorem withV_schedule (a : Vector Byte 16) : (s.withV a).schedule = s.schedule := rfl
@[simp] theorem withV_emitted (a : Vector Byte 16) : (s.withV a).emitted = s.emitted := rfl
@[simp] theorem withV_draws (a : Vector Byte 16) : (s.withV a).draws = s.draws := rfl
@[simp] theorem withV_choices (a : Vector Byte 16) : (s.withV a).choices = s.choices := rfl

@[simp] theorem withI_v (a : Word) : (s.withI a).v = s.v := rfl
@[simp] theorem withI_i (a : Word) : (s.withI a).i = a := rfl
@[simp] theorem withI_pc (a : Word) : (s.withI a).pc = s.pc := rfl
@[simp] theorem withI_dt (a : Word) : (s.withI a).dt = s.dt := rfl
@[simp] theorem withI_st (a : Word) : (s.withI a).st = s.st := rfl
@[simp] theorem withI_stack (a : Word) : (s.withI a).stack = s.stack := rfl
@[simp] theorem withI_sp (a : Word) : (s.withI a).sp = s.sp := rfl
@[simp] theorem withI_mem (a : Word) : (s.withI a).mem = s.mem := rfl
@[simp] theorem withI_fb (a : Word) : (s.withI a).fb = s.fb := rfl
@[simp] theorem withI_coll (a : Word) : (s.withI a).coll = s.coll := rfl
@[simp] theorem withI_repaint (a : Word) : (s.withI a).repaint = s.repaint := rfl
@[simp] theorem withI_keys (a : Word) : (s.withI a).keys = s.keys := rfl
@[simp] theorem withI_lastKey (a : Word) : (s.withI a).lastKey = s.lastKey := rfl
@[simp] theorem withI_keyWake (a : Word) : (s.withI a).keyWake = s.keyWake := rfl
@[simp] theorem withI_run (a : Word) : (s.withI a).run = s.run := rfl
@[simp] theorem withI_err (a : Word) : (s.withI a).err = s.err := rfl
@[simp] theorem withI_errWord (a : Word) : (s.withI a).errWord = s.errWord := rfl
@[simp] theorem withI_cyc (a : Word) : (s.withI a).cyc = s.cyc := rfl
@[simp] theorem withI_rate (a : Word) : (s.withI a).rate = s.rate := rfl
@[simp] theorem withI_refresh (a : Word) : (s.withI a).refresh = s.refresh := rfl
@[simp] theorem withI_stopReq (a : Word) : (s.withI a).stopReq = s.stopReq := rfl
@[simp] theorem withI_saveReq (a : Word) : (s.withI a).saveReq = s.saveReq := rfl
@[simp] theorem withI_schedule (a : Word) : (s.withI a).schedule = s.schedule := rfl
@[simp] theorem withI_emitted (a : Word) : (s.withI a).emitted = s.emitted := rfl
@[simp] theorem withI_draws (a : Word) : (s.withI a).draws = s.draws := rfl
@[simp] theorem withI_choices (a : Word) : (s.withI a).choices = s.choices := rfl

@[simp] theorem withPc_v (a : Word) : (s.withPc a).v = s.v := rfl
@[simp] theorem withPc_i (a : Word) : (s.withPc a).i = s.i := rfl
@[simp] theorem withPc_pc (a : Word) : (s.withPc a).pc = a := rfl
@[simp] theorem withPc_dt (a : Word) : (s.withPc a).dt = s.dt := rfl
@[simp] theorem withPc_st (a : Word) : (s.withPc a).st = s.st := rfl
@[simp] theorem withPc_stack (a : Word) : (s.withPc a).stack = s.stack := rfl
@[simp] theorem withPc_sp (a : Word) : (s.withPc a).sp = s.sp := rfl
@[simp] theorem withPc_mem (a : Word) : (s.withPc a).mem = s.mem := rfl
@[simp] theorem withPc_fb (a : Word) : (s.withPc a).fb = s.fb := rfl
@[simp] theorem withPc_coll (a : Word) : (s.withPc a).coll = s.coll := rfl
@[simp] theorem withPc_repaint (a : Word) : (s.withPc a).repaint = s.repaint := rfl
@[simp] theorem withPc_keys (a : Word) : (s.withPc a).keys = s.keys := rfl
@[simp] theorem withPc_lastKey (a : Word) : (s.withPc a).lastKey = s.lastKey := rfl
@[simp] theorem withPc_keyWake (a : Word) : (s.withPc a).keyWake = s.keyWake := rfl
@[simp] theorem withPc_run (a : Word) : (s.withPc a).run = s.run := rfl
@[simp] theorem withPc_err (a : Word) : (s.withPc a).err = s.err := rfl
@[simp] theorem withPc_errWord (a : Word) : (s.withPc a).errWord = s.errWord := rfl
@[simp] theorem withPc_cyc (a : Word) : (s.withPc a).cyc = s.cyc := rfl
@[simp] theorem withPc_rate (a : Word) : (s.withPc a).rate = s.rate := rfl
@[simp] theorem withPc_refresh (a : Word) : (s.withPc a).refresh = s.refresh := rfl
@[simp] theorem withPc_stopReq (a : Word) : (s.withPc a).stopReq = s.stopReq := rfl
@[simp] theorem withPc_saveReq (a : Word) : (s.withPc a).saveReq = s.saveReq := rfl
@[simp] theorem withPc_schedule (a : Word) : (s.withPc a).schedule = s.schedule := rfl
@[simp] theorem withPc_emitted (a : Word) : (s.withPc a).emitted = s.emitted := rfl
@[simp] theorem withPc_draws (a : Word) : (s.withPc a).draws = s.draws := rfl
@[simp] theorem withPc_choices (a : Word) : (s.withPc a).choices = s.choices := rfl

@[simp] theorem withDt_v (a : Byte) : (s.withDt a).v = s.v := rfl
@[simp] theorem withDt_i (a : Byte) : (s.withDt a).i = s.i := rfl
@[simp] theorem withDt_pc (a : Byte) : (s.withDt a).pc = s.pc := rfl
@[simp] theorem withDt_dt (a : Byte) : (s.withDt a).dt = a := rfl
@[simp] theorem withDt_st (a : Byte) : (s.withDt a).st = s.st := rfl
@[simp] theorem withDt_stack (a : Byte) : (s.withDt a).stack = s.stack := rfl
@[simp] theorem withDt_sp (a : Byte) : (s.withDt a).sp = s.sp := rfl
@[simp] theorem withDt_mem (a : Byte) : (s.withDt a).mem = s.mem := rfl
@[simp] theorem withDt_fb (a : Byte) : (s.withDt a).fb = s.fb := rfl
@[simp] theorem withDt_coll (a : Byte) : (s.withDt a).coll = s.coll := rfl
@[simp] theorem withDt_repaint (a : Byte) : (s.withDt a).repaint = s.repaint := rfl
@[simp] theorem withDt_keys (a : Byte) : (s.withDt a).keys = s.keys := rfl
@[simp] theorem withDt_lastKey (a : Byte) : (s.withDt a).lastKey = s.lastKey := rfl
@[simp] theorem withDt_keyWake (a : Byte) : (s.withDt a).keyWake = s.keyWake := rfl
@[simp] theorem withDt_run (a : Byte) : (s.withDt a).run = s.run := rfl
@[simp] theorem withDt_err (a : Byte) : (s.withDt a).err = s.err := rfl
@[simp] theorem withDt_errWord (a : Byte) : (s.withDt a).errWord = s.errWord := rfl
@[simp] theorem withDt_cyc (a : Byte) : (s.withDt a).cyc = s.cyc := rfl
@[simp] theorem withDt_rate (a : Byte) : (s.withDt a).rate = s.rate := rfl
@[simp] theorem withDt_refresh (a : Byte) : (s.withDt a).refresh = s.refresh := rfl
@[simp] theorem withDt_stopReq (a : Byte) : (s.withDt a).stopReq = s.stopReq := rfl
@[simp] theorem withDt_saveReq (a : Byte) : (s.withDt a).saveReq = s.saveReq := rfl
@[simp] theorem withDt_schedule (a : Byte) : (s.withDt a).schedule = s.schedule := rfl
@[simp] theorem withDt_emitted (a : Byte) : (s.withDt a).emitted = s.emitted := rfl
@[simp] theorem withDt_draws (a : Byte) : (s.withDt a).draws = s.draws := rfl
@[simp] theorem withDt_choices (a : Byte) : (s.withDt a).choices = s.choices := rfl

@[simp] theorem withSt_v (a : Byte) : (s.withSt a).v = s.v := rfl
@[simp] theorem withSt_i (a : Byte) : (s.withSt a).i = s.i := rfl
@[simp] theorem withSt_pc (a : Byte) : (s.withSt a).pc = s.pc := rfl
@[simp] theorem withSt_dt (a : Byte) : (s.withSt a).dt = s.dt := rfl
@[simp] theorem withSt_st (a : Byte) : (s.withSt a).st = a := rfl
@[simp] theorem withSt_stack (a : Byte) : (s.withSt a).stack = s.stack := rfl
@[simp] theorem withSt_sp (a : Byte) : (s.withSt a).sp = s.sp := rfl
@[simp] theorem withSt_mem (a : Byte) : (s.withSt a).mem = s.mem := rfl
@[simp] theorem withSt_fb (a : Byte) : (s.withSt a).fb = s.fb := rfl
@[simp] theorem withSt_coll (a : Byte) : (s.withSt a).coll = s.coll := rfl
@[simp] theorem withSt_repaint (a : Byte) : (s.withSt a).repaint = s.repaint := rfl
@[simp] theorem withSt_keys (a : Byte) : (s.withSt a).keys = s.keys := rfl
@[simp] theorem withSt_lastKey (a : Byte) : (s.withSt a).lastKey = s.lastKey := rfl
@[simp] theorem withSt_keyWake (a : Byte) : (s.withSt a).keyWake = s.keyWake := rfl
@[simp] theorem withSt_run (a : Byte) : (s.withSt a).run = s.run := rfl
@[simp] theorem withSt_err (a : Byte) : (s.withSt a).err = s.err := rfl
@[simp] theorem withSt_errWord (a : Byte) : (s.withSt a).errWord = s.errWord := rfl
@[simp] theorem withSt_cyc (a : Byte) : (s.withSt a).cyc = s.cyc := rfl
@[simp] theorem withSt_rate (a : Byte) : (s.withSt a).rate = s.rate := rfl
@[simp] theorem withSt_refresh (a : Byte) : (s.withSt a).refresh = s.refresh := rfl
@[simp] theorem withSt_stopReq (a : Byte) : (s.withSt a).stopReq = s.stopReq := rfl
@[simp] theorem withSt_saveReq (a : Byte) : (s.withSt a).saveReq = s.saveReq := rfl
@[simp] theorem withSt_schedule (a : Byte) : (s.withSt a).schedule = s.schedule := rfl
@[simp] theorem withSt_emitted (a : Byte) : (s.withSt a).emitted = s.emitted := rfl
@[simp] theorem withSt_draws (a : Byte) : (s.withSt a).draws = s.draws := rfl
@[simp] theorem withSt_choices (a : Byte) : (s.withSt a).choices = s.choices := rfl

@[simp] theorem withStack_v (a : Vector Word 16) : (s.withStack a).v = s.v := rfl
@[simp] theorem withStack_i (a : Vector Word 16) : (s.withStack a).i = s.i := rfl
@[simp] theorem withStack_pc (a : Vector Word 16) : (s.withStack a).pc = s.pc := rfl
@[simp] theorem withStack_dt (a : Vector Word 16) : (s.withStack a).dt = s.dt := rfl
@[simp] theorem withStack_st (a : Vector Word 16) : (s.withStack a).st = s.st := rfl
@[simp] theorem withStack_stack (a : Vector Word 16) : (s.withStack a).stack = a := rfl
@[simp] theorem withStack_sp (a : Vector Word 16) : (s.withStack a).sp = s.sp := rfl
@[simp] theorem withStack_mem (a : Vector Word 16) : (s.withStack a).mem = s.mem := rfl
@[simp] theorem withStack_fb (a : Vector Word 16) : (s.withStack a).fb = s.fb := rfl
@[simp] theorem withStack_coll (a : Vector Word 16) : (s.withStack a).coll = s.coll := rfl
@[simp] theorem withStack_repaint (a : Vector Word 16) : (s.withStack a).repaint = s.repaint := rfl
@[simp] theorem withStack_keys (a : Vector Word 16) : (s.withStack a).keys = s.keys := rfl
@[simp] theorem withStack_lastKey (a : Vector Word 16) : (s.withStack a).lastKey = s.lastKey := rfl
@[simp] theorem withStack_keyWake (a : Vector Word 16) : (s.withStack a).keyWake = s.keyWake := rfl
@[simp] theorem withStack_run (a : Vector Word 16) : (s.withStack a).run = s.run := rfl
@[simp] theorem withStack_err (a : Vector Word 16) : (s.withStack a).err = s.err := rfl
@[simp] theorem withStack_errWord (a : Vector Word 16) : (s.withStack a).errWord = s.errWord := rfl
@[simp] theorem withStack_cyc (a : Vector Word 16) : (s.withStack a).cyc = s.cyc := rfl
@[simp] theorem withStack_rate (a : Vector Word 16) : (s.withStack a).rate = s.rate := rfl
@[simp] theorem withStack_refresh (a : Vector Word 16) : (s.withStack a).refresh = s.refresh := rfl
@[simp] theorem withStack_stopReq (a : Vector Word 16) : (s.withStack a).stopReq = s.stopReq := rfl
@[simp] theorem withStack_saveReq (a : Vector Word 16) : (s.withStack a).saveReq = s.saveReq := rfl
@[simp] theorem withStack_schedule (a : Vector Word 16) : (s.withStack a).schedule = s.schedule := rfl
@[simp] theorem withStack_emitted (a : Vector Word 16) : (s.withStack a).emitted = s.emitted := rfl
@[simp] theorem withStack_draws (a : Vector Word 16) : (s.withStack a).draws = s.draws := rfl
@[simp] theorem withStack_choices (a : Vector Word 16) : (s.withStack a).choices = s.choices := rfl

@[simp] theorem withSp_v (a : Nat) : (s.withSp a).v = s.v := rfl
@[simp] theorem withSp_i (a : Nat) : (s.withSp a).i = s.i := rfl
@[simp] theorem withSp_pc (a : Nat) : (s.withSp a).pc = s.pc := rfl
@[simp] theorem withSp_dt (a : Nat) : (s.withSp a).dt = s.dt := rfl
@[simp] theorem withSp_st (a : Nat) : (s.withSp a).st = s.st := rfl
@[simp] theorem withSp_stack (a : Nat) : (s.withSp a).stack = s.stack := rfl
@[simp] theorem withSp_sp (a : Nat) : (s.withSp a).sp = a := rfl
@[simp] theorem withSp_mem (a : Nat) : (s.withSp a).mem = s.mem := rfl
@[simp] theorem withSp_fb (a : Nat) : (s.withSp a).fb = s.fb := rfl
@[simp] theorem withSp_coll (a : Nat) : (s.withSp a).coll = s.coll := rfl
@[simp] theorem withSp_repaint (a : Nat) : (s.withSp a).repaint = s.repaint := rfl
@[simp] theorem withSp_keys (a : Nat) : (s.withSp a).keys = s.keys := rfl
@[simp] theorem withSp_lastKey (a : Nat) : (s.withSp a).lastKey = s.lastKey := rfl
@[simp] theorem withSp_keyWake (a : Nat) : (s.withSp a).keyWake = s.keyWake := rfl
@[simp] theorem withSp_run (a : Nat) : (s.withSp a).run = s.run := rfl
@[simp] theorem withSp_err (a : Nat) : (s.withSp a).err = s.err := rfl
@[simp] theorem withSp_errWord (a : Nat) : (s.withSp a).errWord = s.errWord := rfl
@[simp] theorem withSp_cyc (a : Nat) : (s.withSp a).cyc = s.cyc := rfl
@[simp] theorem withSp_rate (a : Nat) : (s.withSp a).rate = s.rate := rfl
@[simp] theorem withSp_refresh (a : Nat) : (s.withSp a).refresh = s.refresh := rfl
@[simp] theorem withSp_stopReq (a : Nat) : (s.withSp a).stopReq = s.stopReq := rfl
@[simp] theorem withSp_saveReq (a : Nat) : (s.withSp a).saveReq = s.saveReq := rfl
@[simp] theorem withSp_schedule (a : Nat) : (s.withSp a).schedule = s.schedule := rfl
@[simp] theorem withSp_emitted (a : Nat) : (s.withSp a).emitted = s.emitted := rfl
@[simp] theorem withSp_draws (a : Nat) : (s.withSp a).draws = s.draws := rfl
@[simp] theorem withSp_choices (a : Nat) : (s.withSp a).choices = s.choices := rfl

@[simp] theorem withMem_v (a : Memory) : (s.withMem a).v = s.v := rfl
@[simp] theorem withMem_i (a : Memory) : (s.withMem a).i = s.i := rfl
@[simp] theorem withMem_pc (a : Memory) : (s.withMem a).pc = s.pc := rfl
@[simp] theorem withMem_dt (a : Memory) : (s.withMem a).dt = s.dt := rfl
@[simp] theorem withMem_st (a : Memory) : (s.withMem a).st = s.st := rfl
@[simp] theorem withMem_stack (a : Memory) : (s.withMem a).stack = s.stack := rfl
@[simp] theorem withMem_sp (a : Memory) : (s.withMem a).sp = s.sp := rfl
@[simp] theorem withMem_mem (a : Memory) : (s.withMem a).mem = a := rfl
@[simp] theorem withMem_fb (a : Memory) : (s.withMem a).fb = s.fb := rfl
@[simp] theorem withMem_coll (a : Memory) : (s.withMem a).coll = s.coll := rfl
@[simp] theorem withMem_repaint (a : Memory) : (s.withMem a).repaint = s.repaint := rfl
@[simp] theorem withMem_keys (a : Memory) : (s.withMem a).keys = s.keys := rfl
@[simp] theorem withMem_lastKey (a : Memory) : (s.withMem a).lastKey = s.lastKey := rfl
@[simp] theorem withMem_keyWake (a : Memory) : (s.withMem a).keyWake = s.keyWake := rfl
@[simp] theorem withMem_run (a : Memory) : (s.withMem a).run = s.run := rfl
@[simp] theorem withMem_err (a : Memory) : (s.withMem a).err = s.err := rfl
@[simp] theorem withMem_errWord (a : Memory) : (s.withMem a).errWord = s.errWord := rfl
@[simp] theorem withMem_cyc (a : Memory) : (s.withMem a).cyc = s.cyc := rfl
@[simp] theorem withMem_rate (a : Memory) : (s.withMem a).rate = s.rate := rfl
@[simp] theorem withMem_refresh (a : Memory) : (s.withMem a).refresh = s.refresh := rfl
@[simp] theorem withMem_stopReq (a : Memory) : (s.withMem a).stopReq = s.stopReq := rfl
@[simp] theorem withMem_saveReq (a : Memory) : (s.withMem a).saveReq = s.saveReq := rfl
@[simp] theorem withMem_schedule (a : Memory) : (s.withMem a).schedule = s.schedule := rfl
@[simp] theorem withMem_emitted (a : Memory) : (s.withMem a).emitted = s.emitted := rfl
@[simp] theorem withMem_draws (a : Memory) : (s.withMem a).draws = s.draws := rfl
@[simp] theorem withMem_choices (a : Memory) : (s.withMem a).choices = s.choices := rfl

@[simp] theorem withFb_v (a : Grid) : (s.withFb a).v = s.v := rfl
@[simp] theorem withFb_i (a : Grid) : (s.withFb a).i = s.i := rfl
@[simp] theorem withFb_pc (a : Grid) : (s.withFb a).pc = s.pc := rfl
@[simp] theorem withFb_dt (a : Grid) : (s.withFb a).dt = s.dt := rfl
@[simp] theorem withFb_st (a : Grid) : (s.withFb a).st = s.st := rfl
@[simp] theorem withFb_stack (a : Grid) : (s.withFb a).stack = s.stack := rfl
@[simp] theorem withFb_sp (a : Grid) : (s.withFb a).sp = s.sp := rfl
@[simp] theorem withFb_mem (a : Grid) : (s.withFb a).mem = s.mem := rfl
@[simp] theorem withFb_fb (a : Grid) : (s.withFb a).fb = a := rfl
@[simp] theorem withFb_coll (a : Grid) : (s.withFb a).coll = s.coll := rfl
@[simp] theorem withFb_repaint (a : Grid) : (s.withFb a).repaint = s.repaint := rfl
@[simp] theorem withFb_keys (a : Grid) : (s.withFb a).keys = s.keys := rfl
@[simp] theorem withFb_lastKey (a : Grid) : (s.withFb a).lastKey = s.lastKey := rfl
@[simp] theorem withFb_keyWake (a : Grid) : (s.withFb a).keyWake = s.keyWake := rfl
@[simp] theorem withFb_run (a : Grid) : (s.withFb a).run = s.run := rfl
@[simp] theorem withFb_err (a : Grid) : (s.withFb a).err = s.err := rfl
@[simp] theorem withFb_errWord (a : Grid) : (s.withFb a).errWord = s.errWord := rfl
@[simp] theorem withFb_cyc (a : Grid) : (s.withFb a).cyc = s.cyc := rfl
@[simp] theorem withFb_rate (a : Grid) : (s.withFb a).rate = s.rate := rfl
@[simp] theorem withFb_refresh (a : Grid) : (s.withFb a).refresh = s.refresh := rfl
@[simp] theorem withFb_stopReq (a : Grid) : (s.withFb a).stopReq = s.stopReq := rfl
@[simp] theorem withFb_saveReq (a : Grid) : (s.withFb a).saveReq = s.saveReq := rfl
@[simp] theorem withFb_schedule (a : Grid) : (s.withFb a).schedule = s.schedule := rfl
@[simp] theorem withFb_emitted (a : Grid) : (s.withFb a).emitted = s.emitted := rfl
@[simp] theorem withFb_draws (a : Grid) : (s.withFb a).draws = s.draws := rfl
@[simp] theorem withFb_choices (a : Grid) : (s.withFb a).choices = s.choices := rfl

@[simp] theorem withColl_v (a : Bool) : (s.withColl a).v = s.v := rfl
@[simp] theorem withColl_i (a : Bool) : (s.withColl a).i = s.i := rfl
@[simp] theorem withColl_pc (a : Bool) : (s.withColl a).pc = s.pc := rfl
@[simp] theorem withColl_dt (a : Bool) : (s.withColl a).dt = s.dt := rfl
@[simp] theorem withColl_st (a : Bool) : (s.withColl a).st = s.st := rfl
@[simp] theorem withColl_stack (a : Bool) : (s.withColl a).stack = s.stack := rfl
@[simp] theorem withColl_sp (a : Bool) : (s.withColl a).sp = s.sp := rfl
@[simp] theorem withColl_mem (a : Bool) : (s.withColl a).mem = s.mem := rfl
@[simp] theorem withColl_fb (a : Bool) : (s.withColl a).fb = s.fb := rfl
@[simp] theorem withColl_coll (a : Bool) : (s.withColl a).coll = a := rfl
@[simp] theorem withColl_repaint (a : Bool) : (s.withColl a).repaint = s.repaint := rfl
@[simp] theorem withColl_keys (a : Bool) : (s.withColl a).keys = s.keys := rfl
@[simp] theorem withColl_lastKey (a : Bool) : (s.withColl a).lastKey = s.lastKey := rfl
@[simp] theorem withColl_keyWake (a : Bool) : (s.withColl a).keyWake = s.keyWake := rfl
@[simp] theorem withColl_run (a : Bool) : (s.withColl a).run = s.run := rfl
@[simp] theorem withColl_err (a : Bool) : (s.withColl a).err = s.err := rfl
@[simp] theorem withColl_errWord (a : Bool) : (s.withColl a).errWord = s.errWord := rfl
@[simp] theorem withColl_cyc (a : Bool) : (s.withColl a).cyc = s.cyc := rfl
@[simp] theorem withColl_rate (a : Bool) : (s.withColl a).rate = s.rate := rfl
@[simp] theorem withColl_refresh (a : Bool) : (s.withColl a).refresh = s.refresh := rfl
@[simp] theorem withColl_stopReq (a : Bool) : (s.withColl a).stopReq = s.stopReq := rfl
@[simp] theorem withColl_saveReq (a : Bool) : (s.withColl a).saveReq = s.saveReq := rfl
@[simp] theorem withColl_schedule (a : Bool) : (s.withColl a).schedule = s.schedule := rfl
@[simp] theorem withColl_emitted (a : Bool) : (s.withColl a).emitted = s.emitted := rfl
@[simp] theorem withColl_draws (a : Bool) : (s.withColl a).draws = s.draws := rfl
@[simp] theorem withColl_choices (a : Bool) : (s.withColl a).choices = s.choices := rfl

@[simp] theorem withRepaint_v (a : Bool) : (s.withRepaint a).v = s.v := rfl
@[simp] theorem withRepaint_i (a : Bool) : (s.withRepaint a).i = s.i := rfl
@[simp] theorem withRepaint_pc (a : Bool) : (s.withRepaint a).pc = s.pc := rfl
@[simp] theorem withRepaint_dt (a : Bool) : (s.withRepaint a).dt = s.dt := rfl
@[simp] theorem withRepaint_st (a : Bool) : (s.withRepaint a).st = s.st := rfl
@[simp] theorem withRepaint_stack (a : Bool) : (s.withRepaint a).stack = s.stack := rfl
@[simp] theorem withRepaint_sp (a : Bool) : (s.withRepaint a).sp = s.sp := rfl
@[simp] theorem withRepaint_mem (a : Bool) : (s.withRepaint a).mem = s.mem := rfl
@[simp] theorem withRepaint_fb (a : Bool) : (s.withRepaint a).fb = s.fb := rfl
@[simp] theorem withRepaint_coll (a : Bool) : (s.withRepaint a).coll = s.coll := rfl
@[simp] theorem withRepaint_repaint (a : Bool) : (s.withRepaint a).repaint = a := rfl
@[simp] theorem withRepaint_keys (a : Bool) : (s.withRepaint a).keys = s.keys := rfl
@[simp] theorem withRepaint_lastKey (a : Bool) : (s.withRepaint a).lastKey = s.lastKey := rfl
@[simp] theorem withRepaint_keyWake (a : Bool) : (s.withRepaint a).keyWake = s.keyWake := rfl
@[simp] theorem withRepaint_run (a : Bool) : (s.withRepaint a).run = s.run := rfl
@[simp] theorem withRepaint_err (a : Bool) : (s.withRepaint a).err = s.err := rfl
@[simp] theorem withRepaint_errWord (a : Bool) : (s.withRepaint a).errWord = s.errWord := rfl
@[simp] theorem withRepaint_cyc (a : Bool) : (s.withRepaint a).cyc = s.cyc := rfl
@[simp] theorem withRepaint_rate (a : Bool) : (s.withRepaint a).rate = s.rate := rfl
@[simp] theorem withRepaint_refresh (a : Bool) : (s.withRepaint a).refresh = s.refresh := rfl
@[simp] theorem withRepaint_stopReq (a : Bool) : (s.withRepaint a).stopReq = s.stopReq := rfl
@[simp] theorem withRepaint_saveReq (a : Bool) : (s.withRepaint a).saveReq = s.saveReq := rfl
@[simp] theorem withRepaint_schedule (a : Bool) : (s.withRepaint a).schedule = s.schedule := rfl
@[simp] theorem withRepaint_emitted (a : Bool) : (s.withRepaint a).emitted = s.emitted := rfl
@[simp] theorem withRepaint_draws (a : Bool) : (s.withRepaint a).draws = s.draws := rfl
@[simp] theorem withRepaint_choices (a : Bool) : (s.withRepaint a).choices = s.choices := rfl

@[simp] theorem withKeys_v (a : BitVec 16) : (s.withKeys a).v = s.v := rfl
@[simp] theorem withKeys_i (a : BitVec 16) : (s.withKeys a).i = s.i := rfl
@[simp] theorem withKeys_pc (a : BitVec 16) : (s.withKeys a).pc = s.pc := rfl
@[simp] theorem withKeys_dt (a : BitVec 16) : (s.withKeys a).dt = s.dt := rfl
@[simp] theorem withKeys_st (a : BitVec 16) : (s.withKeys a).st = s.st := rfl
@[simp] theorem withKeys_stack (a : BitVec 16) : (s.withKeys a).stack = s.stack := rfl
@[simp] theorem withKeys_sp (a : BitVec 16) : (s.withKeys a).sp = s.sp := rfl
@[simp] theorem withKeys_mem (a : BitVec 16) : (s.withKeys a).mem = s.mem := rfl
@[simp] theorem withKeys_fb (a : BitVec 16) : (s.withKeys a).fb = s.fb := rfl
@[simp] theorem withKeys_coll (a : BitVec 16) : (s.withKeys a).coll = s.coll := rfl
@[simp] theorem withKeys_repaint (a : BitVec 16) : (s.withKeys a).repaint = s.repaint := rfl
@[simp] theorem withKeys_keys (a : BitVec 16) : (s.withKeys a).keys = a := rfl
@[simp] theorem withKeys_lastKey (a : BitVec 16) : (s.withKeys a).lastKey = s.lastKey := rfl
@[simp] theorem withKeys_keyWake (a : BitVec 16) : (s.withKeys a).keyWake = s.keyWake := rfl
@[simp] theorem withKeys_run (a : BitVec 16) : (s.withKeys a).run = s.run := rfl
@[simp] theorem withKeys_err (a : BitVec 16) : (s.withKeys a).err = s.err := rfl
@[simp] theorem withKeys_errWord (a : BitVec 16) : (s.withKeys a).errWord = s.errWord := rfl
@[simp] theorem withKeys_cyc (a : BitVec 16) : (s.withKeys a).cyc = s.cyc := rfl
@[simp] theorem withKeys_rate (a : BitVec 16) : (s.withKeys a).rate = s.rate := rfl
@[simp] theorem withKeys_refresh (a : BitVec 16) : (s.withKeys a).refresh = s.refresh := rfl
@[simp] theorem withKeys_stopReq (a : BitVec 16) : (s.withKeys a).stopReq = s.stopReq := rfl
@[simp] theorem withKeys_saveReq (a : BitVec 16) : (s.withKeys a).saveReq = s.saveReq := rfl
@[simp] theorem withKeys_schedule (a : BitVec 16) : (s.withKeys a).schedule = s.schedule := rfl
@[simp] theorem withKeys_emitted (a : BitVec 16) : (s.withKeys a).emitted = s.emitted := rfl
@[simp] theorem withKeys_draws (a : BitVec 16) : (s.withKeys a).draws = s.draws := rfl
@[simp] theorem withKeys_choices (a : BitVec 16) : (s.withKeys a).choices = s.choices := rfl

@[simp] theorem withLastKey_v (a : BitVec 4) : (s.withLastKey a).v = s.v := rfl
@[simp] theorem withLastKey_i (a : BitVec 4) : (s.withLastKey a).i = s.i := rfl
@[simp] theorem withLastKey_pc (a : BitVec 4) : (s.withLastKey a).pc = s.pc := rfl
@[simp] theorem withLastKey_dt (a : BitVec 4) : (s.withLastKey a).dt = s.dt := rfl
@[simp] theorem withLastKey_st (a : BitVec 4) : (s.withLastKey a).st = s.st := rfl
@[simp] theorem withLastKey_stack (a : BitVec 4) : (s.withLastKey a).stack = s.stack := rfl
@[simp] theorem withLastKey_sp (a : BitVec 4) : (s.withLastKey a).sp = s.sp := rfl
@[simp] theorem withLastKey_mem (a : BitVec 4) : (s.withLastKey a).mem = s.mem := rfl
@[simp] theorem withLastKey_fb (a : BitVec 4) : (s.withLastKey a).fb = s.fb := rfl
@[simp] theorem withLastKey_coll (a : BitVec 4) : (s.withLastKey a).coll = s.coll := rfl
@[simp] theorem withLastKey_repaint (a : BitVec 4) : (s.withLastKey a).repaint = s.repaint := rfl
@[simp] theorem withLastKey_keys (a : BitVec 4) : (s.withLastKey a).keys = s.keys := rfl
@[simp] theorem withLastKey_lastKey (a : BitVec 4) : (s.withLastKey a).lastKey = a := rfl
@[simp] theorem withLastKey_keyWake (a : BitVec 4) : (s.withLastKey a).keyWake = s.keyWake := rfl
@[simp] theorem withLastKey_run (a : BitVec 4) : (s.withLastKey a).run = s.run := rfl
@[simp] theorem withLastKey_err (a : BitVec 4) : (s.withLastKey a).err = s.err := rfl
@[simp] theorem withLastKey_errWord (a : BitVec 4) : (s.withLastKey a).errWord = s.errWord := rfl
@[simp] theorem withLastKey_cyc (a : BitVec 4) : (s.withLastKey a).cyc = s.cyc := rfl
@[simp] theorem withLastKey_rate (a : BitVec 4) : (s.withLastKey a).rate = s.rate := rfl
@[simp] theorem withLastKey_refresh (a : BitVec 4) : (s.withLastKey a).refresh = s.refresh := rfl
@[simp] theorem withLastKey_stopReq (a : BitVec 4) : (s.withLastKey a).stopReq = s.stopReq := rfl
@[simp] theorem withLastKey_saveReq (a : BitVec 4) : (s.withLastKey a).saveReq = s.saveReq := rfl
@[simp] theorem withLastKey_schedule (a : BitVec 4) : (s.withLastKey a).schedule = s.schedule := rfl
@[simp] theorem withLastKey_emitted (a : BitVec 4) : (s.withLastKey a).emitted = s.emitted := rfl
@[simp] theorem withLastKey_draws (a : BitVec 4) : (s.withLastKey a).draws = s.draws := rfl
@[simp] theorem withLastKey_choices (a : BitVec 4) : (s.withLastKey a).choices = s.choices := rfl

@[simp] theorem withKeyWake_v (a : Bool) : (s.withKeyWake a).v = s.v := rfl
@[simp] theorem withKeyWake_i (a : Bool) : (s.withKeyWake a).i = s.i := rfl
@[simp] theorem withKeyWake_pc (a : Bool) : (s.withKeyWake a).pc = s.pc := rfl
@[simp] theorem withKeyWake_dt (a : Bool) : (s.withKeyWake a).dt = s.dt := rfl
@[simp] theorem withKeyWake_st (a : Bool) : (s.withKeyWake a).st = s.st := rfl
@[simp] theorem withKeyWake_stack (a : Bool) : (s.withKeyWake a).stack = s.stack := rfl
@[simp] theorem withKeyWake_sp (a : Bool) : (s.withKeyWake a).sp = s.sp := rfl
@[simp] theorem withKeyWake_mem (a : Bool) : (s.withKeyWake a).mem = s.mem := rfl
@[simp] theorem withKeyWake_fb (a : Bool) : (s.withKeyWake a).fb = s.fb := rfl
@[simp] theorem withKeyWake_coll (a : Bool) : (s.withKeyWake a).coll = s.coll := rfl
@[simp] theorem withKeyWake_repaint (a : Bool) : (s.withKeyWake a).repaint = s.repaint := rfl
@[simp] theorem withKeyWake_keys (a : Bool) : (s.withKeyWake a).keys = s.keys := rfl
@[simp] theorem withKeyWake_lastKey (a : Bool) : (s.withKeyWake a).lastKey = s.lastKey := rfl
@[simp] theorem withKeyWake_keyWake (a : Bool) : (s.withKeyWake a).keyWake = a := rfl
@[simp] theorem withKeyWake_run (a : Bool) : (s.withKeyWake a).run = s.run := rfl
@[simp] theorem withKeyWake_err (a : Bool) : (s.withKeyWake a).err = s.err := rfl
@[simp] theorem withKeyWake_errWord (a : Bool) : (s.withKeyWake a).errWord = s.errWord := rfl
@[simp] theorem withKeyWake_cyc (a : Bool) : (s.withKeyWake a).cyc = s.cyc := rfl
@[simp] theorem withKeyWake_rate (a : Bool) : (s.withKeyWake a).rate = s.rate := rfl
@[simp] theorem withKeyWake_refresh (a : Bool) : (s.withKeyWake a).refresh = s.refresh := rfl
@[simp] theorem withKeyWake_stopReq (a : Bool) : (s.withKeyWake a).stopReq = s.stopReq := rfl
@[simp] theorem withKeyWake_saveReq (a : Bool) : (s.withKeyWake a).saveReq = s.saveReq := rfl
@[simp] theorem withKeyWake_schedule (a : Bool) : (s.withKeyWake a).schedule = s.schedule := rfl
@[simp] theorem withKeyWake_emitted (a : Bool) : (s.withKeyWake a).emitted = s.emitted := rfl
@[simp] theorem withKeyWake_draws (a : Bool) : (s.withKeyWake a).draws = s.draws := rfl
@[simp] theorem withKeyWake_choices (a : Bool) : (s.withKeyWake a).choices = s.choices := rfl

@[simp] theorem withRun_v (a : Run) : (s.withRun a).v = s.v := rfl
@[simp] theorem withRun_i (a : Run) : (s.withRun a).i = s.i := rfl
@[simp] theorem withRun_pc (a : Run) : (s.withRun a).pc = s.pc := rfl
@[simp] theorem withRun_dt (a : Run) : (s.withRun a).dt = s.dt := rfl
@[simp] theorem withRun_st (a : Run) : (s.withRun a).st = s.st := rfl
@[simp] theorem withRun_stack (a : Run) : (s.withRun a).stack = s.stack := rfl
@[simp] theorem withRun_sp (a : Run) : (s.withRun a).sp = s.sp := rfl
@[simp] theorem withRun_mem (a : Run) : (s.withRun a).mem = s.mem := rfl
@[simp] theorem withRun_fb (a : Run) : (s.withRun a).fb = s.fb := rfl
@[simp] theorem withRun_coll (a : Run) : (s.withRun a).coll = s.coll := rfl
@[simp] theorem withRun_repaint (a : Run) : (s.withRun a).repaint = s.repaint := rfl
@[simp] theorem withRun_keys (a : Run) : (s.withRun a).keys = s.keys := rfl
@[simp] theorem withRun_lastKey (a : Run) : (s.withRun a).lastKey = s.lastKey := rfl
@[simp] theorem withRun_keyWake (a : Run) : (s.withRun a).keyWake = s.keyWake := rfl
@[simp] theorem withRun_run (a : Run) : (s.withRun a).run = a := rfl
@[simp] theorem withRun_err (a : Run) : (s.withRun a).err = s.err := rfl
@[simp] theorem withRun_errWord (a : Run) : (s.withRun a).errWord = s.errWord := rfl
@[simp] theorem withRun_cyc (a : Run) : (s.withRun a).cyc = s.cyc := rfl
@[simp] theorem withRun_rate (a : Run) : (s.withRun a).rate = s.rate := rfl
@[simp] theorem withRun_refresh (a : Run) : (s.withRun a).refresh = s.refresh := rfl
@[simp] theorem withRun_stopReq (a : Run) : (s.withRun a).stopReq = s.stopReq := rfl
@[simp] theorem withRun_saveReq (a : Run) : (s.withRun a).saveReq = s.saveReq := rfl
@[simp] theorem withRun_schedule (a : Run) : (s.withRun a).schedule = s.schedule := rfl
@[simp] theorem withRun_emitted (a : Run) : (s.withRun a).emitted = s.emitted := rfl
@[simp] theorem withRun_draws (a : Run) : (s.withRun a).draws = s.draws := rfl
@[simp] theorem withRun_choices (a : Run) : (s.withRun a).choices = s.choices := rfl

@[simp] theorem withErr_v (a : Err) : (s.withErr a).v = s.v := rfl
@[simp] theorem withErr_i (a : Err) : (s.withErr a).i = s.i := rfl
@[simp] theorem withErr_pc (a : Err) : (s.withErr a).pc = s.pc := rfl
@[simp] theorem withErr_dt (a : Err) : (s.withErr a).dt = s.dt := rfl
@[simp] theorem withErr_st (a : Err) : (s.withErr a).st = s.st := rfl
@[simp] theorem withErr_stack (a : Err) : (s.withErr a).stack = s.stack := rfl
@[simp] theorem withErr_sp (a : Err) : (s.withErr a).sp = s.sp := rfl
@[simp] theorem withErr_mem (a : Err) : (s.withErr a).mem = s.mem := rfl
@[simp] theorem withErr_fb (a : Err) : (s.withErr a).fb = s.fb := rfl
@[simp] theorem withErr_coll (a : Err) : (s.withErr a).coll = s.coll := rfl
@[simp] theorem withErr_repaint (a : Err) : (s.withErr a).repaint = s.repaint := rfl
@[simp] theorem withErr_keys (a : Err) : (s.withErr a).keys = s.keys := rfl
@[simp] theorem withErr_lastKey (a : Err) : (s.withErr a).lastKey = s.lastKey := rfl
@[simp] theorem withErr_keyWake (a : Err) : (s.withErr a).keyWake = s.keyWake := rfl
@[simp] theorem withErr_run (a : Err) : (s.withErr a).run = s.run := rfl
@[simp] theorem withErr_err (a : Err) : (s.withErr a).err = a := rfl
@[simp] theorem withErr_errWord (a : Err) : (s.withErr a).errWord = s.errWord := rfl
@[simp] theorem withErr_cyc (a : Err) : (s.withErr a).cyc = s.cyc := rfl
@[simp] theorem withErr_rate (a : Err) : (s.withErr a).rate = s.rate := rfl
@[simp] theorem withErr_refresh (a : Err) : (s.withErr a).refresh = s.refresh := rfl
@[simp] theorem withErr_stopReq (a : Err) : (s.withErr a).stopReq = s.stopReq := rfl
@[simp] theorem withErr_saveReq (a : Err) : (s.withErr a).saveReq = s.saveReq := rfl
@[simp] theorem withErr_schedule (a : Err) : (s.withErr a).schedule = s.schedule := rfl
@[simp] theorem withErr_emitted (a : Err) : (s.withErr a).emitted = s.emitted := rfl
@[simp] theorem withErr_draws (a : Err) : (s.withErr a).draws = s.draws := rfl
@[simp] theorem withErr_choices (a : Err) : (s.withErr a).choices = s.choices := rfl

@[simp] theorem withErrWord_v (a : Word) : (s.withErrWord a).v = s.v := rfl
@[simp] theorem withErrWord_i (a : Word) : (s.withErrWord a).i = s.i := rfl
@[simp] theorem withErrWord_pc (a : Word) : (s.withErrWord a).pc = s.pc := rfl
@[simp] theorem withErrWord_dt (a : Word) : (s.withErrWord a).dt = s.dt := rfl
@[simp] theorem withErrWord_st (a : Word) : (s.withErrWord a).st = s.st := rfl
@[simp] theorem withErrWord_stack (a : Word) : (s.withErrWord a).stack = s.stack := rfl
@[simp] theorem withErrWord_sp (a : Word) : (s.withErrWord a).sp = s.sp := rfl
@[simp] theorem withErrWord_mem (a : Word) : (s.withErrWord a).mem = s.mem := rfl
@[simp] theorem withErrWord_fb (a : Word) : (s.withErrWord a).fb = s.fb := rfl
@[simp] theorem withErrWord_coll (a : Word) : (s.withErrWord a).coll = s.coll := rfl
@[simp] theorem withErrWord_repaint (a : Word) : (s.withErrWord a).repaint = s.repaint := rfl
@[simp] theorem withErrWord_keys (a : Word) : (s.withErrWord a).keys = s.keys := rfl
@[simp] theorem withErrWord_lastKey (a : Word) : (s.withErrWord a).lastKey = s.lastKey := rfl
@[simp] theorem withErrWord_keyWake (a : Word) : (s.withErrWord a).keyWake = s.keyWake := rfl
@[simp] theorem withErrWord_run (a : Word) : (s.withErrWord a).run = s.run := rfl
@[simp] theorem withErrWord_err (a : Word) : (s.withErrWord a).err = s.err := rfl
@[simp] theorem withErrWord_errWord (a : Word) : (s.withErrWord a).errWord = a := rfl
@[simp] theorem withErrWord_cyc (a : Word) : (s.withErrWord a).cyc = s.cyc := rfl
@[simp] theorem withErrWord_rate (a : Word) : (s.withErrWord a).rate = s.rate := rfl
@[simp] theorem withErrWord_refresh (a : Word) : (s.withErrWord a).refresh = s.refresh := rfl
@[simp] theorem withErrWord_stopReq (a : Word) : (s.withErrWord a).stopReq = s.stopReq := rfl
@[simp] theorem withErrWord_saveReq (a : Word) : (s.withErrWord a).saveReq = s.saveReq := rfl
@[simp] theorem withErrWord_schedule (a : Word) : (s.withErrWord a).schedule = s.schedule := rfl
@[simp] theorem withErrWord_emitted (a : Word) : (s.withErrWord a).emitted = s.emitted := rfl
@[simp] theorem withErrWord_draws (a : Word) : (s.withErrWord a).draws = s.draws := rfl
@[simp] theorem withErrWord_choices (a : Word) : (s.withErrWord a).choices = s.choices := rfl

@[simp] theorem withCyc_v (a : Nat) : (s.withCyc a).v = s.v := rfl
@[simp] theorem withCyc_i (a : Nat) : (s.withCyc a).i = s.i := rfl
@[simp] theorem withCyc_pc (a : Nat) : (s.withCyc a).pc = s.pc := rfl
@[simp] theorem withCyc_dt (a : Nat) : (s.withCyc a).dt = s.dt := rfl
@[simp] theorem withCyc_st (a : Nat) : (s.withCyc a).st = s.st := rfl
@[simp] theorem withCyc_stack (a : Nat) : (s.withCyc a).stack = s.stack := rfl
@[simp] theorem withCyc_sp (a : Nat) : (s.withCyc a).sp = s.sp := rfl
@[simp] theorem withCyc_mem (a : Nat) : (s.withCyc a).mem = s.mem := rfl
@[simp] theorem withCyc_fb (a : Nat) : (s.withCyc a).fb = s.fb := rfl
@[simp] theorem withCyc_coll (a : Nat) : (s.withCyc a).coll = s.coll := rfl
@[simp] theorem withCyc_repaint (a : Nat) : (s.withCyc a).repaint = s.repaint := rfl
@[simp] theorem withCyc_keys (a : Nat) : (s.withCyc a).keys = s.keys := rfl
@[simp] theorem withCyc_lastKey (a : Nat) : (s.withCyc a).lastKey = s.lastKey := rfl
@[simp] theorem withCyc_keyWake (a : Nat) : (s.withCyc a).keyWake = s.keyWake := rfl
@[simp] theorem withCyc_run (a : Nat) : (s.withCyc a).run = s.run := rfl
@[simp] theorem withCyc_err (a : Nat) : (s.withCyc a).err = s.err := rfl
@[simp] theorem withCyc_errWord (a : Nat) : (s.withCyc a).errWord = s.errWord := rfl
@[simp] theorem withCyc_cyc (a : Nat) : (s.withCyc a).cyc = a := rfl
@[simp] theorem withCyc_rate (a : Nat) : (s.withCyc a).rate = s.rate := rfl
@[simp] theorem withCyc_refresh (a : Nat) : (s.withCyc a).refresh = s.refresh := rfl
@[simp] theorem withCyc_stopReq (a : Nat) : (s.withCyc a).stopReq = s.stopReq := rfl
@[simp] theorem withCyc_saveReq (a : Nat) : (s.withCyc a).saveReq = s.saveReq := rfl
@[simp] theorem withCyc_schedule (a : Nat) : (s.withCyc a).schedule = s.schedule := rfl
@[simp] theorem withCyc_emitted (a : Nat) : (s.withCyc a).emitted = s.emitted := rfl
@[simp] theorem withCyc_draws (a : Nat) : (s.withCyc a).draws = s.draws := rfl
@[simp] theorem withCyc_choices (a : Nat) : (s.withCyc a).choices = s.choices := rfl

@[simp] theorem withRate_v (a : Nat) : (s.withRate a).v = s.v := rfl
@[simp] theorem withRate_i (a : Nat) : (s.withRate a).i = s.i := rfl
@[simp] theorem withRate_pc (a : Nat) : (s.withRate a).pc = s.pc := rfl
@[simp] theorem withRate_dt (a : Nat) : (s.withRate a).dt = s.dt := rfl
@[simp] theorem withRate_st (a : Nat) : (s.withRate a).st = s.st := rfl
@[simp] theorem withRate_stack (a : Nat) : (s.withRate a).stack = s.stack := rfl
@[simp] theorem withRate_sp (a : Nat) : (s.withRate a).sp = s.sp := rfl
@[simp] theorem withRate_mem (a : Nat) : (s.withRate a).mem = s.mem := rfl
@[simp] theorem withRate_fb (a : Nat) : (s.withRate a).fb = s.fb := rfl
@[simp] theorem withRate_coll (a : Nat) : (s.withRate a).coll = s.coll := rfl
@[simp] theorem withRate_repaint (a : Nat) : (s.withRate a).repaint = s.repaint := rfl
@[simp] theorem withRate_keys (a : Nat) : (s.withRate a).keys = s.keys := rfl
@[simp] theorem withRate_lastKey (a : Nat) : (s.withRate a).lastKey = s.lastKey := rfl
@[simp] theorem withRate_keyWake (a : Nat) : (s.withRate a).keyWake = s.keyWake := rfl
@[simp] theorem withRate_run (a : Nat) : (s.withRate a).run = s.run := rfl
@[simp] theorem withRate_err (a : Nat) : (s.withRate a).err = s.err := rfl
@[simp] theorem withRate_errWord (a : Nat) : (s.withRate a).errWord = s.errWord := rfl
@[simp] theorem withRate_cyc (a : Nat) : (s.withRate a).cyc = s.cyc := rfl
@[simp] theorem withRate_rate (a : Nat) : (s.withRate a).rate = a := rfl
@[simp] theorem withRate_refresh (a : Nat) : (s.withRate a).refresh = s.refresh := rfl
@[simp] theorem withRate_stopReq (a : Nat) : (s.withRate a).stopReq = s.stopReq := rfl
@[simp] theorem withRate_saveReq (a : Nat) : (s.withRate a).saveReq = s.saveReq := rfl
@[simp] theorem withRate_schedule (a : Nat) : (s.withRate a).schedule = s.schedule := rfl
@[simp] theorem withRate_emitted (a : Nat) : (s.withRate a).emitted = s.emitted := rfl
@[simp] theorem withRate_draws (a : Nat) : (s.withRate a).draws = s.draws := rfl
@[simp] theorem withRate_choices (a : Nat) : (s.withRate a).choices = s.choices := rfl

@[simp] theorem withRefresh_v (a : Nat) : (s.withRefresh a).v = s.v := rfl
@[simp] theorem withRefresh_i (a : Nat) : (s.withRefresh a).i = s.i := rfl
@[simp] theorem withRefresh_pc (a : Nat) : (s.withRefresh a).pc = s.pc := rfl
@[simp] theorem withRefresh_dt (a : Nat) : (s.withRefresh a).dt = s.dt := rfl
@[simp] theorem withRefresh_st (a : Nat) : (s.withRefresh a).st = s.st := rfl
@[simp] theorem withRefresh_stack (a : Nat) : (s.withRefresh a).stack = s.stack := rfl
@[simp] theorem withRefresh_sp (a : Nat) : (s.withRefresh a).sp = s.sp := rfl
@[simp] theorem withRefresh_mem (a : Nat) : (s.withRefresh a).mem = s.mem := rfl
@[simp] theorem withRefresh_fb (a : Nat) : (s.withRefresh a).fb = s.fb := rfl
@[simp] theorem withRefresh_coll (a : Nat) : (s.withRefresh a).coll = s.coll := rfl
@[simp] theorem withRefresh_repaint (a : Nat) : (s.withRefresh a).repaint = s.repaint := rfl
@[simp] theorem withRefresh_keys (a : Nat) : (s.withRefresh a).keys = s.keys := rfl
@[simp] theorem withRefresh_lastKey (a : Nat) : (s.withRefresh a).lastKey = s.lastKey := rfl
@[simp] theorem withRefresh_keyWake (a : Nat) : (s.withRefresh a).keyWake = s.keyWake := rfl
@[simp] theorem withRefresh_run (a : Nat) : (s.withRefresh a).run = s.run := rfl
@[simp] theorem withRefresh_err (a : Nat) : (s.withRefresh a).err = s.err := rfl
@[simp] theorem withRefresh_errWord (a : Nat) : (s.withRefresh a).errWord = s.errWord := rfl
@[simp] theorem withRefresh_cyc (a : Nat) : (s.withRefresh a).cyc = s.cyc := rfl
@[simp] theorem withRefresh_rate (a : Nat) : (s.withRefresh a).rate = s.rate := rfl
@[simp] theorem withRefresh_refresh (a : Nat) : (s.withRefresh a).refresh = a := rfl
@[simp] theorem withRefresh_stopReq (a : Nat) : (s.withRefresh a).stopReq = s.stopReq := rfl
@[simp] theorem withRefresh_saveReq (a : Nat) : (s.withRefresh a).saveReq = s.saveReq := rfl
@[simp] theorem withRefresh_schedule (a : Nat) : (s.withRefresh a).schedule = s.schedule := rfl
@[simp] theorem withRefresh_emitted (a : Nat) : (s.withRefresh a).emitted = s.emitted := rfl
@[simp] theorem withRefresh_draws (a : Nat) : (s.withRefresh a).draws = s.draws := rfl
@[simp] theorem withRefresh_choices (a : Nat) : (s.withRefresh a).choices = s.choices := rfl

@[simp] theorem withStopReq_v (a : Bool) : (s.withStopReq a).v = s.v := rfl
@[simp] theorem withStopReq_i (a : Bool) : (s.withStopReq a).i = s.i := rfl
@[simp] theorem withStopReq_pc (a : Bool) : (s.withStopReq a).pc = s.pc := rfl
@[simp] theorem withStopReq_dt (a : Bool) : (s.withStopReq a).dt = s.dt := rfl
@[simp] theorem withStopReq_st (a : Bool) : (s.withStopReq a).st = s.st := rfl
@[simp] theorem withStopReq_stack (a : Bool) : (s.withStopReq a).stack = s.stack := rfl
@[simp] theorem withStopReq_sp (a : Bool) : (s.withStopReq a).sp = s.sp := rfl
@[simp] theorem withStopReq_mem (a : Bool) : (s.withStopReq a).mem = s.mem := rfl
@[simp] theorem withStopReq_fb (a : Bool) : (s.withStopReq a).fb = s.fb := rfl
@[simp] theorem withStopReq_coll (a : Bool) : (s.withStopReq a).coll = s.coll := rfl
@[simp] theorem withStopReq_repaint (a : Bool) : (s.withStopReq a).repaint = s.repaint := rfl
@[simp] theorem withStopReq_keys (a : Bool) : (s.withStopReq a).keys = s.keys := rfl
@[simp] theorem withStopReq_lastKey (a : Bool) : (s.withStopReq a).lastKey = s.lastKey := rfl
@[simp] theorem withStopReq_keyWake (a : Bool) : (s.withStopReq a).keyWake = s.keyWake := rfl
@[simp] theorem withStopReq_run (a : Bool) : (s.withStopReq a).run = s.run := rfl
@[simp] theorem withStopReq_err (a : Bool) : (s.withStopReq a).err = s.err := rfl
@[simp] theorem withStopReq_errWord (a : Bool) : (s.withStopReq a).errWord = s.errWord := rfl
@[simp] theorem withStopReq_cyc (a : Bool) : (s.withStopReq a).cyc = s.cyc := rfl
@[simp] theorem withStopReq_rate (a : Bool) : (s.withStopReq a).rate = s.rate := rfl
@[simp] theorem withStopReq_refresh (a : Bool) : (s.withStopReq a).refresh = s.refresh := rfl
@[simp] theorem withStopReq_stopReq (a : Bool) : (s.withStopReq a).stopReq = a := rfl
@[simp] theorem withStopReq_saveReq (a : Bool) : (s.withStopReq a).saveReq = s.saveReq := rfl
@[simp] theorem withStopReq_schedule (a : Bool) : (s.withStopReq a).schedule = s.schedule := rfl
@[simp] theorem withStopReq_emitted (a : Bool) : (s.withStopReq a).emitted = s.emitted := rfl
@[simp] theorem withStopReq_draws (a : Bool) : (s.withStopReq a).draws = s.draws := rfl
@[simp] theorem withStopReq_choices (a : Bool) : (s.withStopReq a).choices = s.choices := rfl

@[simp] theorem withSaveReq_v (a : Bool) : (s.withSaveReq a).v = s.v := rfl
@[simp] theorem withSaveReq_i (a : Bool) : (s.withSaveReq a).i = s.i := rfl
@[simp] theorem withSaveReq_pc (a : Bool) : (s.withSaveReq a).pc = s.pc := rfl
@[simp] theorem withSaveReq_dt (a : Bool) : (s.withSaveReq a).dt = s.dt := rfl
@[simp] theorem withSaveReq_st (a : Bool) : (s.withSaveReq a).st = s.st := rfl
@[simp] theorem withSaveReq_stack (a : Bool) : (s.withSaveReq a).stack = s.stack := rfl
@[simp] theorem withSaveReq_sp (a : Bool) : (s.withSaveReq a).sp = s.sp := rfl
@[simp] theorem withSaveReq_mem (a : Bool) : (s.withSaveReq a).mem = s.mem := rfl
@[simp] theorem withSaveReq_fb (a : Bool) : (s.withSaveReq a).fb = s.fb := rfl
@[simp] theorem withSaveReq_coll (a : Bool) : (s.withSaveReq a).coll = s.coll := rfl
@[simp] theorem withSaveReq_repaint (a : Bool) : (s.withSaveReq a).repaint = s.repaint := rfl
@[simp] theorem withSaveReq_keys (a : Bool) : (s.withSaveReq a).keys = s.keys := rfl
@[simp] theorem withSaveReq_lastKey (a : Bool) : (s.withSaveReq a).lastKey = s.lastKey := rfl
@[simp] theorem withSaveReq_keyWake (a : Bool) : (s.withSaveReq a).keyWake = s.keyWake := rfl
@[simp] theorem withSaveReq_run (a : Bool) : (s.withSaveReq a).run = s.run := rfl
@[simp] theorem withSaveReq_err (a : Bool) : (s.withSaveReq a).err = s.err := rfl
@[simp] theorem withSaveReq_errWord (a : Bool) : (s.withSaveReq a).errWord = s.errWord := rfl
@[simp] theorem withSaveReq_cyc (a : Bool) : (s.withSaveReq a).cyc = s.cyc := rfl
@[simp] theorem withSaveReq_rate (a : Bool) : (s.withSaveReq a).rate = s.rate := rfl
@[simp] theorem withSaveReq_refresh (a : Bool) : (s.withSaveReq a).refresh = s.refresh := rfl
@[simp] theorem withSaveReq_stopReq (a : Bool) : (s.withSaveReq a).stopReq = s.stopReq := rfl
@[simp] theorem withSaveReq_saveReq (a : Bool) : (s.withSaveReq a).saveReq = a := rfl
@[simp] theorem withSaveReq_schedule (a : Bool) : (s.withSaveReq a).schedule = s.schedule := rfl
@[simp] theorem withSaveReq_emitted (a : Bool) : (s.withSaveReq a).emitted = s.emitted := rfl
@[simp] theorem withSaveReq_draws (a : Bool) : (s.withSaveReq a).draws = s.draws := rfl
@[simp] theorem withSaveReq_choices (a : Bool) : (s.withSaveReq a).choices = s.choices := rfl

@[simp] theorem withSchedule_v (a : List Turn) : (s.withSchedule a).v = s.v := rfl
@[simp] theorem withSchedule_i (a : List Turn) : (s.withSchedule a).i = s.i := rfl
@[simp] theorem withSchedule_pc (a : List Turn) : (s.withSchedule a).pc = s.pc := rfl
@[simp] theorem withSchedule_dt (a : List Turn) : (s.withSchedule a).dt = s.dt := rfl
@[simp] theorem withSchedule_st (a : List Turn) : (s.withSchedule a).st = s.st := rfl
@[simp] theorem withSchedule_stack (a : List Turn) : (s.withSchedule a).stack = s.stack := rfl
@[simp] theorem withSchedule_sp (a : List Turn) : (s.withSchedule a).sp = s.sp := rfl
@[simp] theorem withSchedule_mem (a : List Turn) : (s.withSchedule a).mem = s.mem := rfl
@[simp] theorem withSchedule_fb (a : List Turn) : (s.withSchedule a).fb = s.fb := rfl
@[simp] theorem withSchedule_coll (a : List Turn) : (s.withSchedule a).coll = s.coll := rfl
@[simp] theorem withSchedule_repaint (a : List Turn) : (s.withSchedule a).repaint = s.repaint := rfl
@[simp] theorem withSchedule_keys (a : List Turn) : (s.withSchedule a).keys = s.keys := rfl
@[simp] theorem withSchedule_lastKey (a : List Turn) : (s.withSchedule a).lastKey = s.lastKey := rfl
@[simp] theorem withSchedule_keyWake (a : List Turn) : (s.withSchedule a).keyWake = s.keyWake := rfl
@[simp] theorem withSchedule_run (a : List Turn) : (s.withSchedule a).run = s.run := rfl
@[simp] theorem withSchedule_err (a : List Turn) : (s.withSchedule a).err = s.err := rfl
@[simp] theorem withSchedule_errWord (a : List Turn) : (s.withSchedule a).errWord = s.errWord := rfl
@[simp] theorem withSchedule_cyc (a : List Turn) : (s.withSchedule a).cyc = s.cyc := rfl
@[simp] theorem withSchedule_rate (a : List Turn) : (s.withSchedule a).rate = s.rate := rfl
@[simp] theorem withSchedule_refresh (a : List Turn) : (s.withSchedule a).refresh = s.refresh := rfl
@[simp] theorem withSchedule_stopReq (a : List Turn) : (s.withSchedule a).stopReq = s.stopReq := rfl
@[simp] theorem withSchedule_saveReq (a : List Turn) : (s.withSchedule a).saveReq = s.saveReq := rfl
@[simp] theorem withSchedule_schedule (a : List Turn) : (s.withSchedule a).schedule = a := rfl
@[simp] theorem withSchedule_emitted (a : List Turn) : (s.withSchedule a).emitted = s.emitted := rfl
@[simp] theorem withSchedule_draws (a : List Turn) : (s.withSchedule a).draws = s.draws := rfl
@[simp] theorem withSchedule_choices (a : List Turn) : (s.withSchedule a).choices = s.choices := rfl

@[simp] theorem withEmitted_v (a : List Output) : (s.withEmitted a).v = s.v := rfl
@[simp] theorem withEmitted_i (a : List Output) : (s.withEmitted a).i = s.i := rfl
@[simp] theorem withEmitted_pc (a : List Output) : (s.withEmitted a).pc = s.pc := rfl
@[simp] theorem withEmitted_dt (a : List Output) : (s.withEmitted a).dt = s.dt := rfl
@[simp] theorem withEmitted_st (a : List Output) : (s.withEmitted a).st = s.st := rfl
@[simp] theorem withEmitted_stack (a : List Output) : (s.withEmitted a).stack = s.stack := rfl
@[simp] theorem withEmitted_sp (a : List Output) : (s.withEmitted a).sp = s.sp := rfl
@[simp] theorem withEmitted_mem (a : List Output) : (s.withEmitted a).mem = s.mem := rfl
@[simp] theorem withEmitted_fb (a : List Output) : (s.withEmitted a).fb = s.fb := rfl
@[simp] theorem withEmitted_coll (a : List Output) : (s.withEmitted a).coll = s.coll := rfl
@[simp] theorem withEmitted_repaint (a : List Output) : (s.withEmitted a).repaint = s.repaint := rfl
@[simp] theorem withEmitted_keys (a : List Output) : (s.withEmitted a).keys = s.keys := rfl
@[simp] theorem withEmitted_lastKey (a : List Output) : (s.withEmitted a).lastKey = s.lastKey := rfl
@[simp] theorem withEmitted_keyWake (a : List Output) : (s.withEmitted a).keyWake = s.keyWake := rfl
@[simp] theorem withEmitted_run (a : List Output) : (s.withEmitted a).run = s.run := rfl
@[simp] theorem withEmitted_err (a : List Output) : (s.withEmitted a).err = s.err := rfl
@[simp] theorem withEmitted_errWord (a : List Output) : (s.withEmitted a).errWord = s.errWord := rfl
@[simp] theorem withEmitted_cyc (a : List Output) : (s.withEmitted a).cyc = s.cyc := rfl
@[simp] theorem withEmitted_rate (a : List Output) : (s.withEmitted a).rate = s.rate := rfl
@[simp] theorem withEmitted_refresh (a : List Output) : (s.withEmitted a).refresh = s.refresh := rfl
@[simp] theorem withEmitted_stopReq (a : List Output) : (s.withEmitted a).stopReq = s.stopReq := rfl
@[simp] theorem withEmitted_saveReq (a : List Output) : (s.withEmitted a).saveReq = s.saveReq := rfl
@[simp] theorem withEmitted_schedule (a : List Output) : (s.withEmitted a).schedule = s.schedule := rfl
@[simp] theorem withEmitted_emitted (a : List Output) : (s.withEmitted a).emitted = a := rfl
@[simp] theorem withEmitted_draws (a : List Output) : (s.withEmitted a).draws = s.draws := rfl
@[simp] theorem withEmitted_choices (a : List Output) : (s.withEmitted a).choices = s.choices := rfl

@[simp] theorem withDraws_v (a : Nat) : (s.withDraws a).v = s.v := rfl
@[simp] theorem withDraws_i (a : Nat) : (s.withDraws a).i = s.i := rfl
@[simp] theorem withDraws_pc (a : Nat) : (s.withDraws a).pc = s.pc := rfl
@[simp] theorem withDraws_dt (a : Nat) : (s.withDraws a).dt = s.dt := rfl
@[simp] theorem withDraws_st (a : Nat) : (s.withDraws a).st = s.st := rfl
@[simp] theorem withDraws_stack (a : Nat) : (s.withDraws a).stack = s.stack := rfl
@[simp] theorem withDraws_sp (a : Nat) : (s.withDraws a).sp = s.sp := rfl
@[simp] theorem withDraws_mem (a : Nat) : (s.withDraws a).mem = s.mem := rfl
@[simp] theorem withDraws_fb (a : Nat) : (s.withDraws a).fb = s.fb := rfl
@[simp] theorem withDraws_coll (a : Nat) : (s.withDraws a).coll = s.coll := rfl
@[simp] theorem withDraws_repaint (a : Nat) : (s.withDraws a).repaint = s.repaint := rfl
@[simp] theorem withDraws_keys (a : Nat) : (s.withDraws a).keys = s.keys := rfl
@[simp] theorem withDraws_lastKey (a : Nat) : (s.withDraws a).lastKey = s.lastKey := rfl
@[simp] theorem withDraws_keyWake (a : Nat) : (s.withDraws a).keyWake = s.keyWake := rfl
@[simp] theorem withDraws_run (a : Nat) : (s.withDraws a).run = s.run := rfl
@[simp] theorem withDraws_err (a : Nat) : (s.withDraws a).err = s.err := rfl
@[simp] theorem withDraws_errWord (a : Nat) : (s.withDraws a).errWord = s.errWord := rfl
@[simp] theorem withDraws_cyc (a : Nat) : (s.withDraws a).cyc = s.cyc := rfl
@[simp] theorem withDraws_rate (a : Nat) : (s.withDraws a).rate = s.rate := rfl
@[simp] theorem withDraws_refresh (a : Nat) : (s.withDraws a).refresh = s.refresh := rfl
@[simp] theorem withDraws_stopReq (a : Nat) : (s.withDraws a).stopReq = s.stopReq := rfl
@[simp] theorem withDraws_saveReq (a : Nat) : (s.withDraws a).saveReq = s.saveReq := rfl
@[simp] theorem withDraws_schedule (a : Nat) : (s.withDraws a).schedule = s.schedule := rfl
@[simp] theorem withDraws_emitted (a : Nat) : (s.withDraws a).emitted = s.emitted := rfl
@[simp] theorem withDraws_draws (a : Nat) : (s.withDraws a).draws = a := rfl
@[simp] theorem withDraws_choices (a : Nat) : (s.withDraws a).choices = s.choices := rfl

@[simp] theorem withChoices_v (a : Nat) : (s.withChoices a).v = s.v := rfl
@[simp] theorem withChoices_i (a : Nat) : (s.withChoices a).i = s.i := rfl
@[simp] theorem withChoices_pc (a : Nat) : (s.withChoices a).pc = s.pc := rfl
@[simp] theorem withChoices_dt (a : Nat) : (s.withChoices a).dt = s.dt := rfl
@[simp] theorem withChoices_st (a : Nat) : (s.withChoices a).st = s.st := rfl
@[simp] theorem withChoices_stack (a : Nat) : (s.withChoices a).stack = s.stack := rfl
@[simp] theorem withChoices_sp (a : Nat) : (s.withChoices a).sp = s.sp := rfl
@[simp] theorem withChoices_mem (a : Nat) : (s.withChoices a).mem = s.mem := rfl
@[simp] theorem withChoices_fb (a : Nat) : (s.withChoices a).fb = s.fb := rfl
@[simp] theorem withChoices_coll (a : Nat) : (s.withChoices a).coll = s.coll := rfl
@[simp] theorem withChoices_repaint (a : Nat) : (s.withChoices a).repaint = s.repaint := rfl
@[simp] theorem withChoices_keys (a : Nat) : (s.withChoices a).keys = s.keys := rfl
@[simp] theorem withChoices_lastKey (a : Nat) : (s.withChoices a).lastKey = s.lastKey := rfl
@[simp] theorem withChoices_keyWake (a : Nat) : (s.withChoices a).keyWake = s.keyWake := rfl
@[simp] theorem withChoices_run (a : Nat) : (s.withChoices a).run = s.run := rfl
@[simp] theorem withChoices_err (a : Nat) : (s.withChoices a).err = s.err := rfl
@[simp] theorem withChoices_errWord (a : Nat) : (s.withChoices a).errWord = s.errWord := rfl
@[simp] theorem withChoices_cyc (a : Nat) : (s.withChoices a).cyc = s.cyc := rfl
@[simp] theorem withChoices_rate (a : Nat) : (s.withChoices a).rate = s.rate := rfl
@[simp] theorem withChoices_refresh (a : Nat) : (s.withChoices a).refresh = s.refresh := rfl
@[simp] theorem withChoices_stopReq (a : Nat) : (s.withChoices a).stopReq = s.stopReq := rfl
@[simp] theorem withChoices_saveReq (a : Nat) : (s.withChoices a).saveReq = s.saveReq := rfl
@[simp] theorem withChoices_schedule (a : Nat) : (s.withChoices a).schedule = s.schedule := rfl
@[simp] theorem withChoices_emitted (a : Nat) : (s.withChoices a).emitted = s.emitted := rfl
@[simp] theorem withChoices_draws (a : Nat) : (s.withChoices a).draws = s.draws := rfl
@[simp] theorem withChoices_choices (a : Nat) : (s.withChoices a).choices = a := rfl

end Sys2Proof.Machine.State
end

