-- ==== Sys2Proof/Laws/Ops.lean ====
section
/-! SUPPORT. One spec lemma for each shared operation of Ops, Operands and Flags: what it can do, and what it leaves. Callers cite
these and do not unfold the operation. -/

namespace Sys2Proof.Machine

open State

/-! ## Registers -/

@[simp] theorem State.reg_setReg (s : State) (x r : Reg) (b : Byte) :
    (s.setReg x b).reg r = if r = x then b else s.reg r := by
  unfold State.reg State.setReg
  simp only [withV_v, Vector.getElem_set]
  by_cases h : r = x
  · simp [h]
  · rw [if_neg h, if_neg fun hx => h (BitVec.eq_of_toNat_eq hx.symm)]

@[simp] theorem State.setReg_i (s : State) (x : Reg) (b : Byte) : (s.setReg x b).i = s.i := rfl
@[simp] theorem State.setReg_pc (s : State) (x : Reg) (b : Byte) : (s.setReg x b).pc = s.pc := rfl
@[simp] theorem State.setReg_dt (s : State) (x : Reg) (b : Byte) : (s.setReg x b).dt = s.dt := rfl
@[simp] theorem State.setReg_st (s : State) (x : Reg) (b : Byte) : (s.setReg x b).st = s.st := rfl
@[simp] theorem State.setReg_stack (s : State) (x : Reg) (b : Byte) : (s.setReg x b).stack = s.stack := rfl
@[simp] theorem State.setReg_sp (s : State) (x : Reg) (b : Byte) : (s.setReg x b).sp = s.sp := rfl
@[simp] theorem State.setReg_mem (s : State) (x : Reg) (b : Byte) : (s.setReg x b).mem = s.mem := rfl
@[simp] theorem State.setReg_fb (s : State) (x : Reg) (b : Byte) : (s.setReg x b).fb = s.fb := rfl
@[simp] theorem State.setReg_coll (s : State) (x : Reg) (b : Byte) : (s.setReg x b).coll = s.coll := rfl
@[simp] theorem State.setReg_repaint (s : State) (x : Reg) (b : Byte) : (s.setReg x b).repaint = s.repaint := rfl
@[simp] theorem State.setReg_keys (s : State) (x : Reg) (b : Byte) : (s.setReg x b).keys = s.keys := rfl
@[simp] theorem State.setReg_lastKey (s : State) (x : Reg) (b : Byte) : (s.setReg x b).lastKey = s.lastKey := rfl
@[simp] theorem State.setReg_keyWake (s : State) (x : Reg) (b : Byte) : (s.setReg x b).keyWake = s.keyWake := rfl
@[simp] theorem State.setReg_run (s : State) (x : Reg) (b : Byte) : (s.setReg x b).run = s.run := rfl
@[simp] theorem State.setReg_err (s : State) (x : Reg) (b : Byte) : (s.setReg x b).err = s.err := rfl
@[simp] theorem State.setReg_errWord (s : State) (x : Reg) (b : Byte) : (s.setReg x b).errWord = s.errWord := rfl
@[simp] theorem State.setReg_cyc (s : State) (x : Reg) (b : Byte) : (s.setReg x b).cyc = s.cyc := rfl
@[simp] theorem State.setReg_rate (s : State) (x : Reg) (b : Byte) : (s.setReg x b).rate = s.rate := rfl
@[simp] theorem State.setReg_refresh (s : State) (x : Reg) (b : Byte) : (s.setReg x b).refresh = s.refresh := rfl
@[simp] theorem State.setReg_stopReq (s : State) (x : Reg) (b : Byte) : (s.setReg x b).stopReq = s.stopReq := rfl
@[simp] theorem State.setReg_saveReq (s : State) (x : Reg) (b : Byte) : (s.setReg x b).saveReq = s.saveReq := rfl
@[simp] theorem State.setReg_schedule (s : State) (x : Reg) (b : Byte) : (s.setReg x b).schedule = s.schedule := rfl
@[simp] theorem State.setReg_emitted (s : State) (x : Reg) (b : Byte) : (s.setReg x b).emitted = s.emitted := rfl
@[simp] theorem State.setReg_draws (s : State) (x : Reg) (b : Byte) : (s.setReg x b).draws = s.draws := rfl
@[simp] theorem State.setReg_choices (s : State) (x : Reg) (b : Byte) : (s.setReg x b).choices = s.choices := rfl

/-! Registers are read through `reg` alone: an update of another field leaves them. -/
@[simp] theorem State.withI_reg (s : State) (a : Word) (r : Reg) : (s.withI a).reg r = s.reg r := rfl
@[simp] theorem State.withPc_reg (s : State) (a : Word) (r : Reg) : (s.withPc a).reg r = s.reg r := rfl
@[simp] theorem State.withDt_reg (s : State) (a : Byte) (r : Reg) : (s.withDt a).reg r = s.reg r := rfl
@[simp] theorem State.withSt_reg (s : State) (a : Byte) (r : Reg) : (s.withSt a).reg r = s.reg r := rfl
@[simp] theorem State.withStack_reg (s : State) (a : Vector Word 16) (r : Reg) : (s.withStack a).reg r = s.reg r := rfl
@[simp] theorem State.withSp_reg (s : State) (a : Nat) (r : Reg) : (s.withSp a).reg r = s.reg r := rfl
@[simp] theorem State.withMem_reg (s : State) (a : Memory) (r : Reg) : (s.withMem a).reg r = s.reg r := rfl
@[simp] theorem State.withFb_reg (s : State) (a : Grid) (r : Reg) : (s.withFb a).reg r = s.reg r := rfl
@[simp] theorem State.withColl_reg (s : State) (a : Bool) (r : Reg) : (s.withColl a).reg r = s.reg r := rfl
@[simp] theorem State.withRepaint_reg (s : State) (a : Bool) (r : Reg) : (s.withRepaint a).reg r = s.reg r := rfl
@[simp] theorem State.withKeys_reg (s : State) (a : BitVec 16) (r : Reg) : (s.withKeys a).reg r = s.reg r := rfl
@[simp] theorem State.withLastKey_reg (s : State) (a : BitVec 4) (r : Reg) : (s.withLastKey a).reg r = s.reg r := rfl
@[simp] theorem State.withKeyWake_reg (s : State) (a : Bool) (r : Reg) : (s.withKeyWake a).reg r = s.reg r := rfl
@[simp] theorem State.withRun_reg (s : State) (a : Run) (r : Reg) : (s.withRun a).reg r = s.reg r := rfl
@[simp] theorem State.withErr_reg (s : State) (a : Err) (r : Reg) : (s.withErr a).reg r = s.reg r := rfl
@[simp] theorem State.withErrWord_reg (s : State) (a : Word) (r : Reg) : (s.withErrWord a).reg r = s.reg r := rfl
@[simp] theorem State.withCyc_reg (s : State) (a : Nat) (r : Reg) : (s.withCyc a).reg r = s.reg r := rfl
@[simp] theorem State.withRate_reg (s : State) (a : Nat) (r : Reg) : (s.withRate a).reg r = s.reg r := rfl
@[simp] theorem State.withRefresh_reg (s : State) (a : Nat) (r : Reg) : (s.withRefresh a).reg r = s.reg r := rfl
@[simp] theorem State.withStopReq_reg (s : State) (a : Bool) (r : Reg) : (s.withStopReq a).reg r = s.reg r := rfl
@[simp] theorem State.withSaveReq_reg (s : State) (a : Bool) (r : Reg) : (s.withSaveReq a).reg r = s.reg r := rfl
@[simp] theorem State.withSchedule_reg (s : State) (a : List Turn) (r : Reg) : (s.withSchedule a).reg r = s.reg r := rfl
@[simp] theorem State.withEmitted_reg (s : State) (a : List Output) (r : Reg) : (s.withEmitted a).reg r = s.reg r := rfl
@[simp] theorem State.withDraws_reg (s : State) (a : Nat) (r : Reg) : (s.withDraws a).reg r = s.reg r := rfl
@[simp] theorem State.withChoices_reg (s : State) (a : Nat) (r : Reg) : (s.withChoices a).reg r = s.reg r := rfl

/-! ## Fatal errors -/

@[simp] theorem raise_v (e : Err) (w : Word) (s : State) : (raise e w s).v = s.v := rfl
@[simp] theorem raise_i (e : Err) (w : Word) (s : State) : (raise e w s).i = s.i := rfl
@[simp] theorem raise_pc (e : Err) (w : Word) (s : State) : (raise e w s).pc = s.pc := rfl
@[simp] theorem raise_dt (e : Err) (w : Word) (s : State) : (raise e w s).dt = s.dt := rfl
@[simp] theorem raise_st (e : Err) (w : Word) (s : State) : (raise e w s).st = s.st := rfl
@[simp] theorem raise_stack (e : Err) (w : Word) (s : State) : (raise e w s).stack = s.stack := rfl
@[simp] theorem raise_sp (e : Err) (w : Word) (s : State) : (raise e w s).sp = s.sp := rfl
@[simp] theorem raise_mem (e : Err) (w : Word) (s : State) : (raise e w s).mem = s.mem := rfl
@[simp] theorem raise_fb (e : Err) (w : Word) (s : State) : (raise e w s).fb = s.fb := rfl
@[simp] theorem raise_coll (e : Err) (w : Word) (s : State) : (raise e w s).coll = s.coll := rfl
@[simp] theorem raise_repaint (e : Err) (w : Word) (s : State) : (raise e w s).repaint = s.repaint := rfl
@[simp] theorem raise_keys (e : Err) (w : Word) (s : State) : (raise e w s).keys = s.keys := rfl
@[simp] theorem raise_lastKey (e : Err) (w : Word) (s : State) : (raise e w s).lastKey = s.lastKey := rfl
@[simp] theorem raise_keyWake (e : Err) (w : Word) (s : State) : (raise e w s).keyWake = s.keyWake := rfl
@[simp] theorem raise_cyc (e : Err) (w : Word) (s : State) : (raise e w s).cyc = s.cyc := rfl
@[simp] theorem raise_rate (e : Err) (w : Word) (s : State) : (raise e w s).rate = s.rate := rfl
@[simp] theorem raise_refresh (e : Err) (w : Word) (s : State) : (raise e w s).refresh = s.refresh := rfl
@[simp] theorem raise_stopReq (e : Err) (w : Word) (s : State) : (raise e w s).stopReq = s.stopReq := rfl
@[simp] theorem raise_saveReq (e : Err) (w : Word) (s : State) : (raise e w s).saveReq = s.saveReq := rfl
@[simp] theorem raise_schedule (e : Err) (w : Word) (s : State) : (raise e w s).schedule = s.schedule := rfl
@[simp] theorem raise_emitted (e : Err) (w : Word) (s : State) : (raise e w s).emitted = s.emitted := rfl
@[simp] theorem raise_draws (e : Err) (w : Word) (s : State) : (raise e w s).draws = s.draws := rfl
@[simp] theorem raise_choices (e : Err) (w : Word) (s : State) : (raise e w s).choices = s.choices := rfl
@[simp] theorem raise_run (e : Err) (w : Word) (s : State) : (raise e w s).run = .halted := rfl
@[simp] theorem raise_err (e : Err) (w : Word) (s : State) : (raise e w s).err = e := rfl
@[simp] theorem raise_errWord (e : Err) (w : Word) (s : State) : (raise e w s).errWord = w := rfl
@[simp] theorem raise_reg (e : Err) (w : Word) (s : State) (r : Reg) : (raise e w s).reg r = s.reg r := rfl

/-! ## Memory access -/

/-- An address names a cell exactly when it is below 0x1000 (20 R65). -/
theorem cellOf_eq (a : Word) : cellOf a = if a.toNat < Config.memSize then some a.toNat else none := by simp [cellOf]

/-- A read below 0x1000 gives the byte; above, the address is the error (20 R63). -/
theorem memRead_eq (a : Word) (s : State) :
    memRead a s = if a.toNat < Config.memSize then .ok (s.mem.read a.toNat) else .error a := by
  by_cases h : a.toNat < Config.memSize <;> simp [memRead, cellOf_eq, h]

theorem memRead_ok {a : Word} {s : State} {b : Byte} :
    memRead a s = .ok b ↔ a.toNat < Config.memSize ∧ b = s.mem.read a.toNat := by
  rw [memRead_eq]
  split <;> simp_all [eq_comm]

theorem memRead_error {a e : Word} {s : State} :
    memRead a s = .error e ↔ Config.memSize ≤ a.toNat ∧ e = a := by
  rw [memRead_eq]
  split <;> simp_all [eq_comm]

/-- A write below 0x1000 changes memory alone; above, the address is the error (20 R64). -/
theorem memWrite_eq (a : Word) (v : Byte) (s : State) :
    memWrite a v s = if a.toNat < Config.memSize then .ok (s.withMem (s.mem.write a.toNat v)) else .error a := by
  by_cases h : a.toNat < Config.memSize <;> simp [memWrite, cellOf_eq, h]

theorem memWrite_ok {a : Word} {v : Byte} {s t : State} :
    memWrite a v s = .ok t ↔ a.toNat < Config.memSize ∧ t = s.withMem (s.mem.write a.toNat v) := by
  rw [memWrite_eq]
  split <;> simp_all [eq_comm]

theorem memWrite_error {a e : Word} {v : Byte} {s : State} :
    memWrite a v s = .error e ↔ Config.memSize ≤ a.toNat ∧ e = a := by
  rw [memWrite_eq]
  split <;> simp_all [eq_comm]

/-- However its accesses went, an instruction that ends after them has a next state (60 R265). -/
theorem finish_eq (r : Access) :
    finish r = .next (match r with | .ok s => s | .error (a, s) => raise .addressOutOfRange a s) := by
  rcases r with ⟨a, s⟩ | s <;> rfl

/-! ## The call stack -/

/-- A push below the capacity writes the slot at SP and counts it; at capacity it fails (10 R33). -/
theorem push_eq (a : Word) (s : State) :
    push a s = if h : s.sp < 16 then some ((s.withStack (s.stack.set s.sp a h)).withSp (s.sp + 1)) else none := rfl

/-- A pop of a stack with 1 to 16 entries gives the newest and takes it off; the slot keeps its value (10 R34). -/
theorem pop_of_lt {s : State} (h0 : s.sp ≠ 0) (h : s.sp - 1 < 16) :
    pop s = .ok (s.stack[s.sp - 1]'h, s.withSp (s.sp - 1)) := by
  simp [pop, peek, h0, h]

/-- A pop of an empty stack fails (10 R34). -/
theorem pop_empty {s : State} (h0 : s.sp = 0) : pop s = .error .underflow := by simp [pop, peek, h0]

/-- What a pop can answer. -/
theorem pop_cases (s : State) :
    (s.sp = 0 ∧ pop s = .error .underflow) ∨
    (s.sp ≠ 0 ∧ ∃ h : s.sp - 1 < 16, pop s = .ok (s.stack[s.sp - 1]'h, s.withSp (s.sp - 1))) ∨
    (16 < s.sp ∧ pop s = .error .outOfRange) := by
  by_cases h0 : s.sp = 0
  · exact .inl ⟨h0, pop_empty h0⟩
  · by_cases h : s.sp - 1 < 16
    · exact .inr (.inl ⟨h0, h, pop_of_lt h0 h⟩)
    · exact .inr (.inr ⟨by omega, by simp [pop, peek, h0, h]⟩)

/-! ## Skip, key test, random byte, output -/

/-- A skip changes PC alone (41 R159). -/
theorem skipIf_eq (c : Bool) (s : State) : skipIf c s = s.withPc (if c then s.pc + 2 else s.pc) := by
  cases c <;> rfl

/-- The key test is bit k of KEYS, so false for k above 15 (45 R247). -/
theorem isPressed_eq (k : Byte) (s : State) : isPressed k s = s.keys.getLsbD k.toNat := by simp [isPressed]

theorem isPressed_high {k : Byte} (s : State) (h : 16 ≤ k.toNat) : isPressed k s = false := by
  rw [isPressed_eq, BitVec.getLsbD_of_ge _ _ h]

@[simp] theorem drawRand_fst (s : State) : (drawRand s).1 = Config.rand s.draws := rfl
@[simp] theorem drawRand_snd (s : State) : (drawRand s).2 = s.withDraws (s.draws + 1) := rfl

@[simp] theorem emit_v (o : Output) (s : State) : (emit o s).v = s.v := rfl
@[simp] theorem emit_i (o : Output) (s : State) : (emit o s).i = s.i := rfl
@[simp] theorem emit_pc (o : Output) (s : State) : (emit o s).pc = s.pc := rfl
@[simp] theorem emit_dt (o : Output) (s : State) : (emit o s).dt = s.dt := rfl
@[simp] theorem emit_st (o : Output) (s : State) : (emit o s).st = s.st := rfl
@[simp] theorem emit_stack (o : Output) (s : State) : (emit o s).stack = s.stack := rfl
@[simp] theorem emit_sp (o : Output) (s : State) : (emit o s).sp = s.sp := rfl
@[simp] theorem emit_mem (o : Output) (s : State) : (emit o s).mem = s.mem := rfl
@[simp] theorem emit_fb (o : Output) (s : State) : (emit o s).fb = s.fb := rfl
@[simp] theorem emit_coll (o : Output) (s : State) : (emit o s).coll = s.coll := rfl
@[simp] theorem emit_repaint (o : Output) (s : State) : (emit o s).repaint = s.repaint := rfl
@[simp] theorem emit_keys (o : Output) (s : State) : (emit o s).keys = s.keys := rfl
@[simp] theorem emit_lastKey (o : Output) (s : State) : (emit o s).lastKey = s.lastKey := rfl
@[simp] theorem emit_keyWake (o : Output) (s : State) : (emit o s).keyWake = s.keyWake := rfl
@[simp] theorem emit_run (o : Output) (s : State) : (emit o s).run = s.run := rfl
@[simp] theorem emit_err (o : Output) (s : State) : (emit o s).err = s.err := rfl
@[simp] theorem emit_errWord (o : Output) (s : State) : (emit o s).errWord = s.errWord := rfl
@[simp] theorem emit_cyc (o : Output) (s : State) : (emit o s).cyc = s.cyc := rfl
@[simp] theorem emit_rate (o : Output) (s : State) : (emit o s).rate = s.rate := rfl
@[simp] theorem emit_refresh (o : Output) (s : State) : (emit o s).refresh = s.refresh := rfl
@[simp] theorem emit_stopReq (o : Output) (s : State) : (emit o s).stopReq = s.stopReq := rfl
@[simp] theorem emit_saveReq (o : Output) (s : State) : (emit o s).saveReq = s.saveReq := rfl
@[simp] theorem emit_schedule (o : Output) (s : State) : (emit o s).schedule = s.schedule := rfl
@[simp] theorem emit_draws (o : Output) (s : State) : (emit o s).draws = s.draws := rfl
@[simp] theorem emit_choices (o : Output) (s : State) : (emit o s).choices = s.choices := rfl
@[simp] theorem emit_emitted (o : Output) (s : State) : (emit o s).emitted = o :: s.emitted := rfl
@[simp] theorem emit_reg (o : Output) (s : State) (r : Reg) : (emit o s).reg r = s.reg r := rfl

/-! ## Operands -/

@[simp] theorem zextAddr_toNat (nnn : Addr12) : (zextAddr nnn).toNat = nnn.toNat := by
  unfold zextAddr; rw [BitVec.toNat_setWidth]; exact Nat.mod_eq_of_lt (by omega)

@[simp] theorem zextByte_toNat (b : Byte) : (zextByte b).toNat = b.toNat := by
  unfold zextByte; rw [BitVec.toNat_setWidth]; exact Nat.mod_eq_of_lt (by omega)

theorem effAddr_toNat (s : State) (k : Nat) : (effAddr s k).toNat = (s.i.toNat + k) % 65536 := by
  simp [effAddr]

/-- An effective address depends on I alone. -/
theorem effAddr_congr {s t : State} (h : t.i = s.i) (k : Nat) : effAddr t k = effAddr s k := by simp [effAddr, h]

theorem regOf_toNat {k : Nat} (h : k < 16) : (regOf k).toNat = k := by
  simpa [regOf] using h

@[simp] theorem regOf_reg (r : Reg) : regOf r.toNat = r := by simp [regOf]

@[simp] theorem upTo_length (x : Reg) : (upTo x).length = x.toNat + 1 := by simp [upTo]

@[simp] theorem bcdDigits_length (v : Byte) : (bcdDigits v).length = 3 := rfl

@[simp] theorem dumpBytes_length (x : Reg) (s : State) : (dumpBytes x s).length = x.toNat + 1 := by simp [dumpBytes]

/-- The state after a sequence of accesses, whether it ended or stopped at an address out of range. -/
def Access.after : Access → State
  | .ok s => s
  | .error (_, s) => s

/-- A store loop changes memory alone, and keeps its canonical form. -/
theorem storeBytes_mem {bs : List Byte} {k : Nat} {s : State} (hs : s.mem.wf) :
    ∃ m : Memory, m.wf ∧ Access.after (storeBytes k bs s) = s.withMem m := by
  induction bs generalizing k s with
  | nil => exact ⟨s.mem, hs, rfl⟩
  | cons b bs ih =>
    simp only [storeBytes, memWrite_eq]
    by_cases h : (effAddr s k).toNat < Config.memSize
    · rw [if_pos h]
      exact ih (k := k + 1) (s := s.withMem (s.mem.write (effAddr s k).toNat b)) (Memory.wf_write h hs)
    · rw [if_neg h]
      exact ⟨s.mem, hs, rfl⟩

/-- A load loop changes registers alone. -/
theorem loadRegs_v (ks : List Nat) (s : State) : ∃ v, Access.after (loadRegs ks s) = s.withV v := by
  induction ks generalizing s with
  | nil => exact ⟨s.v, rfl⟩
  | cons k ks ih =>
    simp only [loadRegs, memRead_eq]
    by_cases h : (effAddr s k).toNat < Config.memSize
    · rw [if_pos h]
      exact ih (s.setReg (regOf k) (s.mem.read (effAddr s k).toNat))
    · rw [if_neg h]
      exact ⟨s.v, rfl⟩

/-! ## Flags -/

@[simp] theorem trunc8_toNat (n : Nat) : (trunc8 n).toNat = n % 256 := by simp [trunc8]

/-- A flag is 0 or 1 (42 R176). -/
theorem flagByte_toNat (f : Bool) : (flagByte f).toNat = f.toNat := by cases f <;> rfl

theorem carryFlag_eq (a b : Byte) : carryFlag a b = decide (255 < a.toNat + b.toNat) := rfl

/-- The not-borrow flag is the strict comparison, equal operands included, while `SUB_EQ_FLAG` is 0 (42 R178). -/
theorem notBorrowFlag_eq (a b : Byte) : notBorrowFlag a b = decide (b.toNat < a.toNat) := by
  unfold notBorrowFlag
  split <;> simp_all

/-- The result is written after the flag, so it wins when x = 15 (42 R183). -/
theorem setFlagged_eq (x : Reg) (result : Byte) (flag : Bool) (s : State) :
    setFlagged x result flag s = (s.setReg vf (flagByte flag)).setReg x result := by simp [setFlagged]

end Sys2Proof.Machine
end

