-- ==== Sys2Proof/Laws/Framebuffer.lean ====
section
/-! SUPPORT. The framebuffer operations: a pixel after a write, what `FbClear` leaves, and what drawing a row does to every pixel,
to COLL and to nothing else. -/

namespace Sys2Proof.Machine

/-! ## Pixels -/

theorem getMsbD_columnMask (c u : Nat) (hc : c < 64) (hu : u < 64) : (1#64 <<< (63 - c)).getMsbD u = decide (u = c) := by
  rw [BitVec.getMsbD_eq_getLsbD, BitVec.getLsbD_shiftLeft, BitVec.getLsbD_one]
  simp only [hu, decide_true, Bool.true_and]
  by_cases h : u = c
  · subst h; simp; omega
  · have h' : decide (u = c) = false := by simpa using h
    rw [h']
    by_cases h1 : 64 - 1 - u < 63 - c
    · simp [h1]
    · have : 64 - 1 - u - (63 - c) ≠ 0 := by omega
      simp [this]

/-- Writing a column writes that bit of the row and no other. -/
theorem getMsbD_setColumn (r : BitVec 64) (c u : Nat) (b : Bool) (hc : c < 64) (hu : u < 64) :
    (setColumn r c b).getMsbD u = if u = c then b else r.getMsbD u := by
  unfold setColumn
  cases b <;> simp only [BitVec.getMsbD_or, BitVec.getMsbD_and, BitVec.getMsbD_not, getMsbD_columnMask c u hc hu, hu,
    Bool.false_eq_true, if_true, if_false, decide_true, Bool.true_and] <;> by_cases h : u = c <;> simp [h]

theorem Grid.row_setPixel (g : Grid) (x y v : Nat) (b : Bool) :
    (g.setPixel x y b).row v = if v % 32 = y % 32 then setColumn (g.row y) (x % 64) b else g.row v := by
  unfold Grid.setPixel Grid.row
  rw [Vector.getElem_set]
  by_cases h : v % 32 = y % 32
  · simp [h]
  · simp [h, Ne.symm h]

/-- A pixel after a pixel write (43 R202: coordinates wrap). -/
theorem Grid.pixel_setPixel (g : Grid) (x y u v : Nat) (b : Bool) :
    (g.setPixel x y b).pixel u v = if u % 64 = x % 64 ∧ v % 32 = y % 32 then b else g.pixel u v := by
  unfold Grid.pixel
  rw [Grid.row_setPixel]
  by_cases hv : v % 32 = y % 32
  · rw [if_pos hv, getMsbD_setColumn _ _ _ _ (Nat.mod_lt _ (by decide)) (Nat.mod_lt _ (by decide))]
    have hrow : g.row y = g.row v := by simp [Grid.row, hv]
    simp [hv, hrow]
  · simp [hv]

/-- Grids with the same pixels are equal. -/
theorem Grid.ext_pixel {g h : Grid} (e : ∀ x y, x < 64 → y < 32 → g.pixel x y = h.pixel x y) : g = h := by
  refine Vector.ext fun y hy => BitVec.eq_of_getMsbD_eq fun x hx => ?_
  have h1 := e x y hx hy
  simpa [Grid.pixel, Grid.row, Nat.mod_eq_of_lt hx, Nat.mod_eq_of_lt hy] using h1

/-- Coordinates wrap (43 R205). -/
@[simp] theorem Grid.pixel_mod (g : Grid) (x y : Nat) : g.pixel (x % 64) (y % 32) = g.pixel x y := by
  simp [Grid.pixel, Grid.row]

/-- Every pixel of a cleared grid is dark. -/
theorem Grid.pixel_blank (x y : Nat) : Grid.pixel (Vector.replicate 32 0#64) x y = false := by
  simp [Grid.pixel, Grid.row]

/-! ## FbClear -/

@[simp] theorem fbClear_fb (s : State) : (fbClear s).fb = Vector.replicate 32 0 := rfl
@[simp] theorem fbClear_coll (s : State) : (fbClear s).coll = false := rfl
@[simp] theorem fbClear_repaint (s : State) : (fbClear s).repaint = false := rfl
@[simp] theorem fbClear_reg (s : State) (r : Reg) : (fbClear s).reg r = s.reg r := rfl

/-! ## Drawing -/

/-- Drawing a pixel changes FB and COLL alone. -/
theorem drawPixel_eq (x y : Nat) (bit : Bool) (s : State) :
    ∃ g c, drawPixel x y bit s = (s.withColl c).withFb g := ⟨_, _, rfl⟩

theorem drawBits_eq (x y : Nat) (b : Byte) (js : List Nat) (s : State) :
    ∃ g c, drawBits x y b js s = (s.withColl c).withFb g := by
  induction js generalizing s with
  | nil => exact ⟨s.fb, s.coll, rfl⟩
  | cons j js ih =>
    obtain ⟨g, c, h⟩ := ih (drawPixel (x + j) y (b.getMsbD j) s)
    exact ⟨g, c, by rw [drawBits, h]; rfl⟩

/-- Drawing a sprite row changes FB, COLL and REPAINT alone, and sets REPAINT (43 R202). -/
theorem drawByte_eq (x y : Nat) (b : Byte) (s : State) :
    ∃ g c, drawByte x y b s = ((s.withColl c).withFb g).withRepaint true := by
  obtain ⟨g, c, h⟩ := drawBits_eq x y b (List.range 8) s
  exact ⟨g, c, by rw [drawByte, h]⟩

/-- Drawing sprite rows changes FB, COLL and REPAINT alone, whether it ends or stops at an address out of range. -/
theorem drawRows_eq (vx vy : Nat) (rs : List Nat) (s : State) :
    ∃ g c r, Access.after (drawRows vx vy rs s) = ((s.withColl c).withFb g).withRepaint r := by
  induction rs generalizing s with
  | nil => exact ⟨s.fb, s.coll, s.repaint, rfl⟩
  | cons r rs ih =>
    simp only [drawRows, memRead_eq]
    by_cases h : (effAddr s r).toNat < Config.memSize
    · rw [if_pos h]
      obtain ⟨g, c, hd⟩ := drawByte_eq vx (vy + r) (s.mem.read (effAddr s r).toNat) s
      obtain ⟨g', c', r', h1⟩ := ih (drawByte vx (vy + r) (s.mem.read (effAddr s r).toNat) s)
      exact ⟨g', c', r', h1.trans (by rw [hd]; rfl)⟩
    · rw [if_neg h]
      exact ⟨s.fb, s.coll, s.repaint, rfl⟩

/-- Two columns of one sprite row are two pixels. -/
theorem column_inj {x i j : Nat} (hi : i < 64) (hj : j < 64) (h : (x + i) % 64 = (x + j) % 64) : i = j := by omega

/-- Every pixel after the columns js of a sprite row are drawn: the exclusive or with the sprite bit that falls on it (43 R202). -/
theorem drawBits_pixel {x y : Nat} {b : Byte} {js : List Nat} (s : State) (hjs : ∀ j ∈ js, j < 64) (hnd : js.Nodup)
    (u v : Nat) : (drawBits x y b js s).fb.pixel u v =
      (s.fb.pixel u v ^^ js.any (fun j => decide (u % 64 = (x + j) % 64 ∧ v % 32 = y % 32) && b.getMsbD j)) := by
  induction js generalizing s with
  | nil => simp [drawBits]
  | cons j js ih =>
    obtain ⟨hj, hnd'⟩ := List.nodup_cons.1 hnd
    rw [drawBits, ih _ (fun k hk => hjs k (by simp [hk])) hnd', List.any_cons]
    have hp : (drawPixel (x + j) y (b.getMsbD j) s).fb.pixel u v =
        (s.fb.pixel u v ^^ (decide (u % 64 = (x + j) % 64 ∧ v % 32 = y % 32) && b.getMsbD j)) := by
      simp only [drawPixel, State.withFb_fb, Grid.pixel_setPixel]
      by_cases h : u % 64 = (x + j) % 64 ∧ v % 32 = y % 32
      · have : s.fb.pixel (x + j) y = s.fb.pixel u v := by
          rw [← Grid.pixel_mod _ (x + j), ← Grid.pixel_mod _ u, h.1, h.2]
        simp [h, this]
      · simp [h]
    rw [hp]
    by_cases h : u % 64 = (x + j) % 64 ∧ v % 32 = y % 32
    · have hrest : js.any (fun k => decide (u % 64 = (x + k) % 64 ∧ v % 32 = y % 32) && b.getMsbD k) = false := by
        rw [List.any_eq_false]
        intro k hk
        have hkj : k ≠ j := fun e => hj (e ▸ hk)
        have : ¬ (u % 64 = (x + k) % 64) := fun e =>
          hkj (column_inj (hjs k (by simp [hk])) (hjs j (by simp)) (e.symm.trans h.1))
        simp [this]
      rw [hrest]; simp
    · simp [h]

/-- COLL after the columns js of a sprite row are drawn: sticky, and set by a lit pixel under a sprite bit 1 (43 R206). -/
theorem drawBits_coll {x y : Nat} {b : Byte} {js : List Nat} (s : State) (hjs : ∀ j ∈ js, j < 64) (hnd : js.Nodup) :
    (drawBits x y b js s).coll = (s.coll || js.any (fun j => s.fb.pixel (x + j) y && b.getMsbD j)) := by
  induction js generalizing s with
  | nil => simp [drawBits]
  | cons j js ih =>
    obtain ⟨hj, hnd'⟩ := List.nodup_cons.1 hnd
    rw [drawBits, ih _ (fun k hk => hjs k (by simp [hk])) hnd', List.any_cons]
    have hc : (drawPixel (x + j) y (b.getMsbD j) s).coll = (s.coll || (s.fb.pixel (x + j) y && b.getMsbD j)) := rfl
    have hp : ∀ k ∈ js, (drawPixel (x + j) y (b.getMsbD j) s).fb.pixel (x + k) y = s.fb.pixel (x + k) y := by
      intro k hk
      have hkj : k ≠ j := fun e => hj (e ▸ hk)
      simp only [drawPixel, State.withFb_fb, Grid.pixel_setPixel]
      rw [if_neg]
      exact fun e => hkj (column_inj (hjs k (by simp [hk])) (hjs j (by simp)) e.1)
    have hany : js.any (fun k => (drawPixel (x + j) y (b.getMsbD j) s).fb.pixel (x + k) y && b.getMsbD k) =
        js.any (fun k => s.fb.pixel (x + k) y && b.getMsbD k) := by
      rw [Bool.eq_iff_iff, List.any_eq_true, List.any_eq_true]
      exact ⟨fun ⟨k, hk, h⟩ => ⟨k, hk, by rwa [hp k hk] at h⟩, fun ⟨k, hk, h⟩ => ⟨k, hk, by rwa [hp k hk]⟩⟩
    rw [hc, hany, Bool.or_assoc]

/-- Whether a sprite row b at column x of row y has a bit 1 on the pixel (u, v). -/
def rowBit (x y : Nat) (b : Byte) (u v : Nat) : Bool :=
  (List.range 8).any (fun j => decide (u % 64 = (x + j) % 64 ∧ v % 32 = y % 32) && b.getMsbD j)

theorem drawByte_pixel (x y : Nat) (b : Byte) (s : State) (u v : Nat) :
    (drawByte x y b s).fb.pixel u v = (s.fb.pixel u v ^^ rowBit x y b u v) :=
  drawBits_pixel s (fun _ hj => by have := List.mem_range.1 hj; omega) List.nodup_range u v

theorem drawByte_coll (x y : Nat) (b : Byte) (s : State) :
    (drawByte x y b s).coll = (s.coll || (List.range 8).any (fun j => s.fb.pixel (x + j) y && b.getMsbD j)) :=
  drawBits_coll s (fun _ hj => by have := List.mem_range.1 hj; omega) List.nodup_range

end Sys2Proof.Machine
end

