-- ==== Sys2Proof/Laws/Cycle.lean ====
section
/-! SUPPORT. The parts of a core step: fetch, the tick, the end of a cycle, a save at the boundary, reset, and what a step of the
machine is in each run state. -/

namespace Sys2Proof.Machine

/-! ## Fetch -/

/-- A fetch below 0x0FFF reads the word and advances PC by 2 (40 R122). -/
theorem fetch_ok {s : State} (h : s.pc.toNat < 0x0FFF) :
    fetch s = .ok (wordOfBytes (s.mem.read s.pc.toNat) (s.mem.read (s.pc.toNat + 1)), s.withPc (s.pc + 2)) := by
  have h1 : (s.pc + 1).toNat = s.pc.toNat + 1 := by simp [BitVec.toNat_add]; omega
  have h2 : s.pc.toNat < Config.memSize := by unfold Config.memSize; omega
  have h3 : (s.pc + 1).toNat < Config.memSize := by unfold Config.memSize; omega
  simp only [fetch, memRead_eq, if_pos h2, h1, if_pos (h1 ▸ h3)]

/-- A fetch from 0x0FFF or above fails, on the first byte that does not exist (20 R66). -/
theorem fetch_error {s : State} (h : 0x0FFF ≤ s.pc.toNat) :
    fetch s = .error (if s.pc = 0x0FFF then 0x1000 else s.pc) := by
  by_cases hp : s.pc = 0x0FFF
  · simp [fetch, memRead_eq, hp]
  · have h1 : ¬ s.pc.toNat < Config.memSize := by
      intro h2
      unfold Config.memSize at h2
      exact hp (BitVec.eq_of_toNat_eq (by change s.pc.toNat = 4095; omega))
    simp only [fetch, memRead_eq, if_neg h1, if_neg hp]

/-- A fetch changes PC alone. -/
theorem fetch_state {s t : State} {w : Word} (h : fetch s = .ok (w, t)) : t = s.withPc (s.pc + 2) := by
  by_cases hp : s.pc.toNat < 0x0FFF
  · rw [fetch_ok hp] at h
    simp_all
  · rw [fetch_error (by omega)] at h
    cases h

/-! ## The tick and the end of a cycle -/

/-- A timer never goes below 0 (10 R30). -/
theorem countDown_toNat (t : Byte) : (countDown t).toNat = t.toNat - 1 := by
  unfold countDown
  split
  · simp_all
  · rename_i h
    have : t.toNat ≠ 0 := fun e => h (BitVec.eq_of_toNat_eq e)
    simp [BitVec.toNat_sub]
    omega

@[simp] theorem consumeRepaint_v (s : State) : (consumeRepaint s).v = s.v := by unfold consumeRepaint; split <;> rfl
@[simp] theorem consumeRepaint_i (s : State) : (consumeRepaint s).i = s.i := by unfold consumeRepaint; split <;> rfl
@[simp] theorem consumeRepaint_pc (s : State) : (consumeRepaint s).pc = s.pc := by unfold consumeRepaint; split <;> rfl
@[simp] theorem consumeRepaint_dt (s : State) : (consumeRepaint s).dt = s.dt := by unfold consumeRepaint; split <;> rfl
@[simp] theorem consumeRepaint_st (s : State) : (consumeRepaint s).st = s.st := by unfold consumeRepaint; split <;> rfl
@[simp] theorem consumeRepaint_stack (s : State) : (consumeRepaint s).stack = s.stack := by unfold consumeRepaint; split <;> rfl
@[simp] theorem consumeRepaint_sp (s : State) : (consumeRepaint s).sp = s.sp := by unfold consumeRepaint; split <;> rfl
@[simp] theorem consumeRepaint_mem (s : State) : (consumeRepaint s).mem = s.mem := by unfold consumeRepaint; split <;> rfl
@[simp] theorem consumeRepaint_fb (s : State) : (consumeRepaint s).fb = s.fb := by unfold consumeRepaint; split <;> rfl
@[simp] theorem consumeRepaint_coll (s : State) : (consumeRepaint s).coll = s.coll := by unfold consumeRepaint; split <;> rfl
@[simp] theorem consumeRepaint_keys (s : State) : (consumeRepaint s).keys = s.keys := by unfold consumeRepaint; split <;> rfl
@[simp] theorem consumeRepaint_lastKey (s : State) : (consumeRepaint s).lastKey = s.lastKey := by unfold consumeRepaint; split <;> rfl
@[simp] theorem consumeRepaint_keyWake (s : State) : (consumeRepaint s).keyWake = s.keyWake := by unfold consumeRepaint; split <;> rfl
@[simp] theorem consumeRepaint_run (s : State) : (consumeRepaint s).run = s.run := by unfold consumeRepaint; split <;> rfl
@[simp] theorem consumeRepaint_err (s : State) : (consumeRepaint s).err = s.err := by unfold consumeRepaint; split <;> rfl
@[simp] theorem consumeRepaint_errWord (s : State) : (consumeRepaint s).errWord = s.errWord := by unfold consumeRepaint; split <;> rfl
@[simp] theorem consumeRepaint_cyc (s : State) : (consumeRepaint s).cyc = s.cyc := by unfold consumeRepaint; split <;> rfl
@[simp] theorem consumeRepaint_rate (s : State) : (consumeRepaint s).rate = s.rate := by unfold consumeRepaint; split <;> rfl
@[simp] theorem consumeRepaint_refresh (s : State) : (consumeRepaint s).refresh = s.refresh := by unfold consumeRepaint; split <;> rfl
@[simp] theorem consumeRepaint_stopReq (s : State) : (consumeRepaint s).stopReq = s.stopReq := by unfold consumeRepaint; split <;> rfl
@[simp] theorem consumeRepaint_saveReq (s : State) : (consumeRepaint s).saveReq = s.saveReq := by unfold consumeRepaint; split <;> rfl
@[simp] theorem consumeRepaint_schedule (s : State) : (consumeRepaint s).schedule = s.schedule := by unfold consumeRepaint; split <;> rfl
@[simp] theorem consumeRepaint_draws (s : State) : (consumeRepaint s).draws = s.draws := by unfold consumeRepaint; split <;> rfl
@[simp] theorem consumeRepaint_choices (s : State) : (consumeRepaint s).choices = s.choices := by unfold consumeRepaint; split <;> rfl
@[simp] theorem consumeRepaint_repaint (s : State) : (consumeRepaint s).repaint = false := by unfold consumeRepaint; split <;> simp_all

theorem consumeRepaint_emitted (s : State) :
    (consumeRepaint s).emitted = if s.repaint then .repaint s.fb :: s.emitted else s.emitted := by
  unfold consumeRepaint; split <;> rfl

@[simp] theorem timerTick_v (s : State) : (timerTick s).v = s.v := by simp [timerTick]
@[simp] theorem timerTick_i (s : State) : (timerTick s).i = s.i := by simp [timerTick]
@[simp] theorem timerTick_pc (s : State) : (timerTick s).pc = s.pc := by simp [timerTick]
@[simp] theorem timerTick_stack (s : State) : (timerTick s).stack = s.stack := by simp [timerTick]
@[simp] theorem timerTick_sp (s : State) : (timerTick s).sp = s.sp := by simp [timerTick]
@[simp] theorem timerTick_mem (s : State) : (timerTick s).mem = s.mem := by simp [timerTick]
@[simp] theorem timerTick_fb (s : State) : (timerTick s).fb = s.fb := by simp [timerTick]
@[simp] theorem timerTick_coll (s : State) : (timerTick s).coll = s.coll := by simp [timerTick]
@[simp] theorem timerTick_keys (s : State) : (timerTick s).keys = s.keys := by simp [timerTick]
@[simp] theorem timerTick_lastKey (s : State) : (timerTick s).lastKey = s.lastKey := by simp [timerTick]
@[simp] theorem timerTick_keyWake (s : State) : (timerTick s).keyWake = s.keyWake := by simp [timerTick]
@[simp] theorem timerTick_run (s : State) : (timerTick s).run = s.run := by simp [timerTick]
@[simp] theorem timerTick_err (s : State) : (timerTick s).err = s.err := by simp [timerTick]
@[simp] theorem timerTick_errWord (s : State) : (timerTick s).errWord = s.errWord := by simp [timerTick]
@[simp] theorem timerTick_cyc (s : State) : (timerTick s).cyc = s.cyc := by simp [timerTick]
@[simp] theorem timerTick_rate (s : State) : (timerTick s).rate = s.rate := by simp [timerTick]
@[simp] theorem timerTick_refresh (s : State) : (timerTick s).refresh = s.refresh := by simp [timerTick]
@[simp] theorem timerTick_stopReq (s : State) : (timerTick s).stopReq = s.stopReq := by simp [timerTick]
@[simp] theorem timerTick_saveReq (s : State) : (timerTick s).saveReq = s.saveReq := by simp [timerTick]
@[simp] theorem timerTick_schedule (s : State) : (timerTick s).schedule = s.schedule := by simp [timerTick]
@[simp] theorem timerTick_draws (s : State) : (timerTick s).draws = s.draws := by simp [timerTick]
@[simp] theorem timerTick_choices (s : State) : (timerTick s).choices = s.choices := by simp [timerTick]
@[simp] theorem timerTick_dt (s : State) : (timerTick s).dt = countDown s.dt := by simp [timerTick]
@[simp] theorem timerTick_st (s : State) : (timerTick s).st = countDown s.st := by simp [timerTick]
@[simp] theorem timerTick_repaint (s : State) : (timerTick s).repaint = false := by simp [timerTick]

theorem timerTick_emitted (s : State) :
    (timerTick s).emitted = if s.repaint then .repaint s.fb :: s.emitted else s.emitted := by
  rw [timerTick, consumeRepaint_emitted]; rfl

@[simp] theorem endOfCycle_v (s : State) : (endOfCycle s).v = s.v := by unfold endOfCycle; split <;> simp
@[simp] theorem endOfCycle_i (s : State) : (endOfCycle s).i = s.i := by unfold endOfCycle; split <;> simp
@[simp] theorem endOfCycle_pc (s : State) : (endOfCycle s).pc = s.pc := by unfold endOfCycle; split <;> simp
@[simp] theorem endOfCycle_stack (s : State) : (endOfCycle s).stack = s.stack := by unfold endOfCycle; split <;> simp
@[simp] theorem endOfCycle_sp (s : State) : (endOfCycle s).sp = s.sp := by unfold endOfCycle; split <;> simp
@[simp] theorem endOfCycle_mem (s : State) : (endOfCycle s).mem = s.mem := by unfold endOfCycle; split <;> simp
@[simp] theorem endOfCycle_fb (s : State) : (endOfCycle s).fb = s.fb := by unfold endOfCycle; split <;> simp
@[simp] theorem endOfCycle_coll (s : State) : (endOfCycle s).coll = s.coll := by unfold endOfCycle; split <;> simp
@[simp] theorem endOfCycle_keys (s : State) : (endOfCycle s).keys = s.keys := by unfold endOfCycle; split <;> simp
@[simp] theorem endOfCycle_lastKey (s : State) : (endOfCycle s).lastKey = s.lastKey := by unfold endOfCycle; split <;> simp
@[simp] theorem endOfCycle_keyWake (s : State) : (endOfCycle s).keyWake = s.keyWake := by unfold endOfCycle; split <;> simp
@[simp] theorem endOfCycle_run (s : State) : (endOfCycle s).run = s.run := by unfold endOfCycle; split <;> simp
@[simp] theorem endOfCycle_err (s : State) : (endOfCycle s).err = s.err := by unfold endOfCycle; split <;> simp
@[simp] theorem endOfCycle_errWord (s : State) : (endOfCycle s).errWord = s.errWord := by unfold endOfCycle; split <;> simp
@[simp] theorem endOfCycle_rate (s : State) : (endOfCycle s).rate = s.rate := by unfold endOfCycle; split <;> simp
@[simp] theorem endOfCycle_refresh (s : State) : (endOfCycle s).refresh = s.refresh := by unfold endOfCycle; split <;> simp
@[simp] theorem endOfCycle_stopReq (s : State) : (endOfCycle s).stopReq = s.stopReq := by unfold endOfCycle; split <;> simp
@[simp] theorem endOfCycle_saveReq (s : State) : (endOfCycle s).saveReq = s.saveReq := by unfold endOfCycle; split <;> simp
@[simp] theorem endOfCycle_schedule (s : State) : (endOfCycle s).schedule = s.schedule := by unfold endOfCycle; split <;> simp
@[simp] theorem endOfCycle_draws (s : State) : (endOfCycle s).draws = s.draws := by unfold endOfCycle; split <;> simp
@[simp] theorem endOfCycle_choices (s : State) : (endOfCycle s).choices = s.choices := by unfold endOfCycle; split <;> simp

/-- The end of a cycle counts it, and ticks when REFRESH cycles have been counted (40 R125). -/
theorem endOfCycle_eq (s : State) : endOfCycle s =
    if s.refresh ≤ s.cyc + 1 then (timerTick (s.withCyc (s.cyc + 1))).withCyc 0 else s.withCyc (s.cyc + 1) := rfl

/-! ## The cycle boundary -/

@[simp] theorem serveSave_v (s : State) : (serveSave s).v = s.v := by unfold serveSave; split <;> rfl
@[simp] theorem serveSave_i (s : State) : (serveSave s).i = s.i := by unfold serveSave; split <;> rfl
@[simp] theorem serveSave_pc (s : State) : (serveSave s).pc = s.pc := by unfold serveSave; split <;> rfl
@[simp] theorem serveSave_dt (s : State) : (serveSave s).dt = s.dt := by unfold serveSave; split <;> rfl
@[simp] theorem serveSave_st (s : State) : (serveSave s).st = s.st := by unfold serveSave; split <;> rfl
@[simp] theorem serveSave_stack (s : State) : (serveSave s).stack = s.stack := by unfold serveSave; split <;> rfl
@[simp] theorem serveSave_sp (s : State) : (serveSave s).sp = s.sp := by unfold serveSave; split <;> rfl
@[simp] theorem serveSave_mem (s : State) : (serveSave s).mem = s.mem := by unfold serveSave; split <;> rfl
@[simp] theorem serveSave_fb (s : State) : (serveSave s).fb = s.fb := by unfold serveSave; split <;> rfl
@[simp] theorem serveSave_coll (s : State) : (serveSave s).coll = s.coll := by unfold serveSave; split <;> rfl
@[simp] theorem serveSave_repaint (s : State) : (serveSave s).repaint = s.repaint := by unfold serveSave; split <;> rfl
@[simp] theorem serveSave_keys (s : State) : (serveSave s).keys = s.keys := by unfold serveSave; split <;> rfl
@[simp] theorem serveSave_lastKey (s : State) : (serveSave s).lastKey = s.lastKey := by unfold serveSave; split <;> rfl
@[simp] theorem serveSave_keyWake (s : State) : (serveSave s).keyWake = s.keyWake := by unfold serveSave; split <;> rfl
@[simp] theorem serveSave_run (s : State) : (serveSave s).run = s.run := by unfold serveSave; split <;> rfl
@[simp] theorem serveSave_err (s : State) : (serveSave s).err = s.err := by unfold serveSave; split <;> rfl
@[simp] theorem serveSave_errWord (s : State) : (serveSave s).errWord = s.errWord := by unfold serveSave; split <;> rfl
@[simp] theorem serveSave_cyc (s : State) : (serveSave s).cyc = s.cyc := by unfold serveSave; split <;> rfl
@[simp] theorem serveSave_rate (s : State) : (serveSave s).rate = s.rate := by unfold serveSave; split <;> rfl
@[simp] theorem serveSave_refresh (s : State) : (serveSave s).refresh = s.refresh := by unfold serveSave; split <;> rfl
@[simp] theorem serveSave_stopReq (s : State) : (serveSave s).stopReq = s.stopReq := by unfold serveSave; split <;> rfl
@[simp] theorem serveSave_schedule (s : State) : (serveSave s).schedule = s.schedule := by unfold serveSave; split <;> rfl
@[simp] theorem serveSave_draws (s : State) : (serveSave s).draws = s.draws := by unfold serveSave; split <;> rfl
@[simp] theorem serveSave_choices (s : State) : (serveSave s).choices = s.choices := by unfold serveSave; split <;> rfl
@[simp] theorem serveSave_saveReq (s : State) : (serveSave s).saveReq = false := by unfold serveSave; split <;> simp_all

theorem serveSave_emitted (s : State) :
    (serveSave s).emitted = if s.saveReq then .snapshot (snapshot s) :: s.emitted else s.emitted := by
  unfold serveSave; split <;> rfl

@[simp] theorem takeTurn_v (s : State) : (takeTurn s).v = s.v := rfl
@[simp] theorem takeTurn_i (s : State) : (takeTurn s).i = s.i := rfl
@[simp] theorem takeTurn_pc (s : State) : (takeTurn s).pc = s.pc := rfl
@[simp] theorem takeTurn_dt (s : State) : (takeTurn s).dt = s.dt := rfl
@[simp] theorem takeTurn_st (s : State) : (takeTurn s).st = s.st := rfl
@[simp] theorem takeTurn_stack (s : State) : (takeTurn s).stack = s.stack := rfl
@[simp] theorem takeTurn_sp (s : State) : (takeTurn s).sp = s.sp := rfl
@[simp] theorem takeTurn_mem (s : State) : (takeTurn s).mem = s.mem := rfl
@[simp] theorem takeTurn_fb (s : State) : (takeTurn s).fb = s.fb := rfl
@[simp] theorem takeTurn_coll (s : State) : (takeTurn s).coll = s.coll := rfl
@[simp] theorem takeTurn_repaint (s : State) : (takeTurn s).repaint = s.repaint := rfl
@[simp] theorem takeTurn_keys (s : State) : (takeTurn s).keys = s.keys := rfl
@[simp] theorem takeTurn_lastKey (s : State) : (takeTurn s).lastKey = s.lastKey := rfl
@[simp] theorem takeTurn_keyWake (s : State) : (takeTurn s).keyWake = s.keyWake := rfl
@[simp] theorem takeTurn_run (s : State) : (takeTurn s).run = s.run := rfl
@[simp] theorem takeTurn_err (s : State) : (takeTurn s).err = s.err := rfl
@[simp] theorem takeTurn_errWord (s : State) : (takeTurn s).errWord = s.errWord := rfl
@[simp] theorem takeTurn_cyc (s : State) : (takeTurn s).cyc = s.cyc := rfl
@[simp] theorem takeTurn_rate (s : State) : (takeTurn s).rate = s.rate := rfl
@[simp] theorem takeTurn_refresh (s : State) : (takeTurn s).refresh = s.refresh := rfl
@[simp] theorem takeTurn_stopReq (s : State) : (takeTurn s).stopReq = s.stopReq := rfl
@[simp] theorem takeTurn_saveReq (s : State) : (takeTurn s).saveReq = s.saveReq := rfl
@[simp] theorem takeTurn_emitted (s : State) : (takeTurn s).emitted = s.emitted := rfl
@[simp] theorem takeTurn_draws (s : State) : (takeTurn s).draws = s.draws := rfl
@[simp] theorem takeTurn_choices (s : State) : (takeTurn s).choices = s.choices := rfl
@[simp] theorem takeTurn_schedule (s : State) : (takeTurn s).schedule = s.schedule.tail := rfl

/-! ## Reset -/

@[simp] theorem resetMachine_v (s : State) : (resetMachine s).v = State.reset.v := rfl
@[simp] theorem resetMachine_i (s : State) : (resetMachine s).i = State.reset.i := rfl
@[simp] theorem resetMachine_pc (s : State) : (resetMachine s).pc = State.reset.pc := rfl
@[simp] theorem resetMachine_dt (s : State) : (resetMachine s).dt = State.reset.dt := rfl
@[simp] theorem resetMachine_st (s : State) : (resetMachine s).st = State.reset.st := rfl
@[simp] theorem resetMachine_stack (s : State) : (resetMachine s).stack = State.reset.stack := rfl
@[simp] theorem resetMachine_sp (s : State) : (resetMachine s).sp = State.reset.sp := rfl
@[simp] theorem resetMachine_mem (s : State) : (resetMachine s).mem = State.reset.mem := rfl
@[simp] theorem resetMachine_fb (s : State) : (resetMachine s).fb = State.reset.fb := rfl
@[simp] theorem resetMachine_coll (s : State) : (resetMachine s).coll = State.reset.coll := rfl
@[simp] theorem resetMachine_repaint (s : State) : (resetMachine s).repaint = State.reset.repaint := rfl
@[simp] theorem resetMachine_keys (s : State) : (resetMachine s).keys = State.reset.keys := rfl
@[simp] theorem resetMachine_lastKey (s : State) : (resetMachine s).lastKey = State.reset.lastKey := rfl
@[simp] theorem resetMachine_keyWake (s : State) : (resetMachine s).keyWake = State.reset.keyWake := rfl
@[simp] theorem resetMachine_run (s : State) : (resetMachine s).run = State.reset.run := rfl
@[simp] theorem resetMachine_err (s : State) : (resetMachine s).err = s.err := rfl
@[simp] theorem resetMachine_errWord (s : State) : (resetMachine s).errWord = s.errWord := rfl
@[simp] theorem resetMachine_cyc (s : State) : (resetMachine s).cyc = State.reset.cyc := rfl
@[simp] theorem resetMachine_rate (s : State) : (resetMachine s).rate = s.rate := rfl
@[simp] theorem resetMachine_refresh (s : State) : (resetMachine s).refresh = s.refresh := rfl
@[simp] theorem resetMachine_stopReq (s : State) : (resetMachine s).stopReq = State.reset.stopReq := rfl
@[simp] theorem resetMachine_saveReq (s : State) : (resetMachine s).saveReq = State.reset.saveReq := rfl
@[simp] theorem resetMachine_schedule (s : State) : (resetMachine s).schedule = s.schedule := rfl
@[simp] theorem resetMachine_emitted (s : State) : (resetMachine s).emitted = s.emitted := rfl
@[simp] theorem resetMachine_draws (s : State) : (resetMachine s).draws = s.draws := rfl
@[simp] theorem resetMachine_choices (s : State) : (resetMachine s).choices = s.choices := rfl

/-! ## Registers through the parts of a step -/

@[simp] theorem timerTick_reg (s : State) (r : Reg) : (timerTick s).reg r = s.reg r := by simp [State.reg]
@[simp] theorem endOfCycle_reg (s : State) (r : Reg) : (endOfCycle s).reg r = s.reg r := by simp [State.reg]
@[simp] theorem serveSave_reg (s : State) (r : Reg) : (serveSave s).reg r = s.reg r := by simp [State.reg]
@[simp] theorem takeTurn_reg (s : State) (r : Reg) : (takeTurn s).reg r = s.reg r := rfl

/-! ## A step -/

/-- In Running a step of the core is a cycle. -/
theorem coreStep_running {s : State} (h : s.run = .running) : coreStep s = cycle s := by simp [coreStep, h]
theorem coreStep_idle {s : State} (h : s.run = .idle) : coreStep s = .next s := by simp [coreStep, h]
theorem coreStep_waitKey {s : State} {x : Reg} (h : s.run = .waitKey x) : coreStep s = .next (resume x s) := by
  simp [coreStep, h]
theorem coreStep_halted {s : State} (h : s.run = .halted) : coreStep s = .next (cleanup s) := by simp [coreStep, h]

theorem step_core {s : State} (h : s.turn = .core) : step s = coreStep (takeTurn s) := by simp [step, turnStep, h]
theorem step_host {s : State} {e : HostEvent} (h : s.turn = .host e) : step s = hostStep e (takeTurn s) := by
  simp [step, turnStep, h]

/-- What a key wait can do on the core's turn (40 R129): stand still, halt, or take the key. -/
theorem resume_cases (x : Reg) (s : State) :
    (s.stopReq = false ∧ s.keyWake = false ∧ resume x s = s) ∨
    (s.stopReq = true ∧ ∃ c, resume x s = haltStop (s.withChoices c)) ∨
    (s.keyWake = true ∧ ∃ c, resume x s = takeKey x (s.withChoices c)) := by
  unfold resume
  cases h1 : s.stopReq <;> cases h2 : s.keyWake
  · exact .inl ⟨rfl, rfl, rfl⟩
  · exact .inr (.inr ⟨rfl, s.choices, rfl⟩)
  · exact .inr (.inl ⟨rfl, s.choices, rfl⟩)
  · dsimp only
    split
    · exact .inr (.inl ⟨rfl, _, rfl⟩)
    · exact .inr (.inr ⟨rfl, _, rfl⟩)

/-- What `fetchExecute` can do: raise in the fetch, raise in the decode, or execute the decoded instruction. -/
theorem fetchExecute_cases (s : State) :
    (∃ a, fetch s = .error a ∧ fetchExecute s = .next (raise .addressOutOfRange a s)) ∨
    (∃ w e, fetch s = .ok (w, s.withPc (s.pc + 2)) ∧ decodeWord w = .error e ∧
      fetchExecute s = .next (raise .unknownInstruction w (s.withPc (s.pc + 2)))) ∨
    (∃ w i, fetch s = .ok (w, s.withPc (s.pc + 2)) ∧ decodeWord w = .ok i ∧
      fetchExecute s = executeCycle i (s.withPc (s.pc + 2))) := by
  unfold fetchExecute
  cases hf : fetch s with
  | error a => exact .inl ⟨a, rfl, rfl⟩
  | ok p =>
    obtain ⟨w, t⟩ := p
    obtain rfl := fetch_state hf
    cases hd : decodeWord w with
    | error e => exact .inr (.inl ⟨w, e, rfl, hd, by simp only [hd]⟩)
    | ok i => exact .inr (.inr ⟨w, i, rfl, hd, by simp only [hd]⟩)

end Sys2Proof.Machine
end

