-- ==== Sys2Proof/Laws/Decode.lean ====
section
/-! SUPPORT. Words as numbers: what each format of 30 R91 is worth, what each field reads, and what matching a row of each mask
says of the major opcode and the low bits. Proofs about decoding cite these and let omega do the arithmetic. -/

namespace Sys2Proof

/-! ## Fields -/

theorem fieldOp_toNat (w : Word) : (fieldOp w).toNat = w.toNat / 4096 := by
  simp only [fieldOp, BitVec.extractLsb'_toNat, Nat.shiftRight_eq_div_pow]; omega
theorem fieldX_toNat (w : Word) : (fieldX w).toNat = w.toNat / 256 % 16 := by
  simp [fieldX, BitVec.extractLsb'_toNat, Nat.shiftRight_eq_div_pow]
theorem fieldY_toNat (w : Word) : (fieldY w).toNat = w.toNat / 16 % 16 := by
  simp [fieldY, BitVec.extractLsb'_toNat, Nat.shiftRight_eq_div_pow]
theorem fieldN_toNat (w : Word) : (fieldN w).toNat = w.toNat % 16 := by simp [fieldN, BitVec.extractLsb'_toNat]
theorem fieldKK_toNat (w : Word) : (fieldKK w).toNat = w.toNat % 256 := by simp [fieldKK, BitVec.extractLsb'_toNat]
theorem fieldNNN_toNat (w : Word) : (fieldNNN w).toNat = w.toNat % 4096 := by simp [fieldNNN, BitVec.extractLsb'_toNat]

/-! ## Formats -/

theorem toNat_append_mul {m n : Nat} (a : BitVec m) (b : BitVec n) : (a ++ b).toNat = a.toNat * 2 ^ n + b.toNat := by
  rw [BitVec.toNat_append, ← Nat.shiftLeft_add_eq_or_of_lt b.isLt, Nat.shiftLeft_eq]

theorem wordOfBytes_toNat (hi lo : Byte) : (wordOfBytes hi lo).toNat = hi.toNat * 256 + lo.toNat := toNat_append_mul hi lo
theorem wordA_toNat (op : Nibble) (nnn : Addr12) : (wordA op nnn).toNat = op.toNat * 4096 + nnn.toNat :=
  toNat_append_mul op nnn
theorem wordXB_toNat (op : Nibble) (x : Reg) (kk : Byte) :
    (wordXB op x kk).toNat = op.toNat * 4096 + x.toNat * 256 + kk.toNat := by
  unfold wordXB
  rw [toNat_append_mul, toNat_append_mul]; omega
theorem wordX_toNat (op : Nibble) (x : Reg) (f : Byte) :
    (wordX op x f).toNat = op.toNat * 4096 + x.toNat * 256 + f.toNat := by
  unfold wordX
  rw [toNat_append_mul, toNat_append_mul]; omega
theorem wordXY_toNat (op : Nibble) (x y : Reg) (f : Nibble) :
    (wordXY op x y f).toNat = op.toNat * 4096 + x.toNat * 256 + y.toNat * 16 + f.toNat := by
  unfold wordXY
  rw [toNat_append_mul, toNat_append_mul, toNat_append_mul]; omega

/-! ## Fields of a format: the operands placed in a word are the ones read from it (30 R97) -/

@[simp] theorem fieldNNN_wordA (op : Nibble) (nnn : Addr12) :
    fieldNNN (wordA op nnn) = nnn :=
  BitVec.eq_of_toNat_eq (by simp only [fieldNNN_toNat, wordA_toNat]; omega)
@[simp] theorem fieldX_wordXB (op : Nibble) (x : Reg) (kk : Byte) :
    fieldX (wordXB op x kk) = x :=
  BitVec.eq_of_toNat_eq (by simp only [fieldX_toNat, wordXB_toNat]; omega)
@[simp] theorem fieldKK_wordXB (op : Nibble) (x : Reg) (kk : Byte) :
    fieldKK (wordXB op x kk) = kk :=
  BitVec.eq_of_toNat_eq (by simp only [fieldKK_toNat, wordXB_toNat]; omega)
@[simp] theorem fieldX_wordXY (op : Nibble) (x y : Reg) (f : Nibble) :
    fieldX (wordXY op x y f) = x :=
  BitVec.eq_of_toNat_eq (by simp only [fieldX_toNat, wordXY_toNat]; omega)
@[simp] theorem fieldY_wordXY (op : Nibble) (x y : Reg) (f : Nibble) :
    fieldY (wordXY op x y f) = y :=
  BitVec.eq_of_toNat_eq (by simp only [fieldY_toNat, wordXY_toNat]; omega)
@[simp] theorem fieldN_wordXY (op : Nibble) (x y : Reg) (f : Nibble) :
    fieldN (wordXY op x y f) = f :=
  BitVec.eq_of_toNat_eq (by simp only [fieldN_toNat, wordXY_toNat]; omega)
@[simp] theorem fieldX_wordX (op : Nibble) (x : Reg) (f : Byte) :
    fieldX (wordX op x f) = x :=
  BitVec.eq_of_toNat_eq (by simp only [fieldX_toNat, wordX_toNat]; omega)

/-! ## Masks -/

theorem and_F000 (w : Word) : (w &&& 0xF000#16).toNat = w.toNat / 4096 * 4096 := by
  have h : w &&& 0xF000#16 = (w >>> 12) <<< 12 := by
    refine BitVec.eq_of_getLsbD_eq fun i hi => ?_
    interval_cases i <;> simp
  rw [h, BitVec.toNat_shiftLeft, BitVec.toNat_ushiftRight, Nat.shiftLeft_eq, Nat.shiftRight_eq_div_pow]
  omega

theorem and_low (w : Word) (k : Nat) (hk : k ≤ 16) : (w &&& BitVec.ofNat 16 (2 ^ k - 1)).toNat = w.toNat % 2 ^ k := by
  rw [BitVec.toNat_and, BitVec.toNat_ofNat, Nat.mod_eq_of_lt, Nat.and_two_pow_sub_one_eq_mod]
  have : 2 ^ k ≤ 2 ^ 16 := Nat.pow_le_pow_right (by decide) hk
  have : 0 < 2 ^ k := Nat.two_pow_pos k
  omega

theorem and_F00F (w : Word) : (w &&& 0xF00F#16).toNat = w.toNat / 4096 * 4096 + w.toNat % 16 := by
  have h : w &&& 0xF00F#16 = (w &&& 0xF000#16) ||| (w &&& 0x000F#16) := by
    rw [← BitVec.and_or_distrib_left]; rfl
  have hd : (w &&& 0xF000#16) &&& (w &&& 0x000F#16) = 0#16 := by
    refine BitVec.eq_of_getLsbD_eq fun i hi => ?_
    interval_cases i <;> simp
  rw [h, ← BitVec.add_eq_or_of_and_eq_zero _ _ hd, BitVec.toNat_add, and_F000, show (w &&& 0x000F#16).toNat = w.toNat % 16 from and_low w 4 (by decide)]
  omega

theorem and_F0FF (w : Word) : (w &&& 0xF0FF#16).toNat = w.toNat / 4096 * 4096 + w.toNat % 256 := by
  have h : w &&& 0xF0FF#16 = (w &&& 0xF000#16) ||| (w &&& 0x00FF#16) := by
    rw [← BitVec.and_or_distrib_left]; rfl
  have hd : (w &&& 0xF000#16) &&& (w &&& 0x00FF#16) = 0#16 := by
    refine BitVec.eq_of_getLsbD_eq fun i hi => ?_
    interval_cases i <;> simp
  rw [h, ← BitVec.add_eq_or_of_and_eq_zero _ _ hd, BitVec.toNat_add, and_F000, show (w &&& 0x00FF#16).toNat = w.toNat % 256 from and_low w 8 (by decide)]
  omega

/-! ## Matching a row (30 R98) -/

/-- A row with mask 0xF000 matches by the major opcode. -/
theorem match_F000 {w p : Word} : (w &&& 0xF000#16 == p) = decide (w.toNat / 4096 * 4096 = p.toNat) := by
  rw [← and_F000, Bool.eq_iff_iff, beq_iff_eq, decide_eq_true_iff, ← BitVec.toNat_inj]
/-- A row with mask 0xF00F matches by the major opcode and the low nibble. -/
theorem match_F00F {w p : Word} :
    (w &&& 0xF00F#16 == p) = decide (w.toNat / 4096 * 4096 + w.toNat % 16 = p.toNat) := by
  rw [← and_F00F, Bool.eq_iff_iff, beq_iff_eq, decide_eq_true_iff, ← BitVec.toNat_inj]
/-- A row with mask 0xF0FF matches by the major opcode and the low byte. -/
theorem match_F0FF {w p : Word} :
    (w &&& 0xF0FF#16 == p) = decide (w.toNat / 4096 * 4096 + w.toNat % 256 = p.toNat) := by
  rw [← and_F0FF, Bool.eq_iff_iff, beq_iff_eq, decide_eq_true_iff, ← BitVec.toNat_inj]
/-- A row with mask 0xFFFF matches one word. -/
theorem match_FFFF {w p : Word} : (w &&& 0xFFFF#16 == p) = decide (w.toNat = p.toNat) := by
  have h : w &&& 0xFFFF#16 = w := BitVec.and_allOnes
  rw [h, Bool.eq_iff_iff, beq_iff_eq, decide_eq_true_iff, ← BitVec.toNat_inj]

/-- The table has the 35 shapes (30 R101). -/
theorem table_length : table.length = 35 := by decide

/-! ## Extraction by mask and shift (30 R97) -/

theorem maskShift_table : maskShift 0x0FFF = 0 ∧ maskShift 0x0F00 = 8 ∧ maskShift 0x00F0 = 4 ∧ maskShift 0x00FF = 0 ∧
    maskShift 0x000F = 0 := by decide

theorem operandByMask_fieldNNN (w : Word) : operandByMask 0x0FFF w = (fieldNNN w).setWidth 16 := by
  rw [operandByMask, maskShift_table.1]
  refine BitVec.eq_of_getLsbD_eq fun k hk => ?_
  simp only [fieldNNN, BitVec.getLsbD_ushiftRight, BitVec.getLsbD_and, BitVec.getLsbD_setWidth, BitVec.getLsbD_extractLsb']
  interval_cases k <;> simp

theorem operandByMask_fieldX (w : Word) : operandByMask 0x0F00 w = (fieldX w).setWidth 16 := by
  rw [operandByMask, maskShift_table.2.1]
  refine BitVec.eq_of_getLsbD_eq fun k hk => ?_
  simp only [fieldX, BitVec.getLsbD_ushiftRight, BitVec.getLsbD_and, BitVec.getLsbD_setWidth, BitVec.getLsbD_extractLsb']
  interval_cases k <;> simp

theorem operandByMask_fieldY (w : Word) : operandByMask 0x00F0 w = (fieldY w).setWidth 16 := by
  rw [operandByMask, maskShift_table.2.2.1]
  refine BitVec.eq_of_getLsbD_eq fun k hk => ?_
  simp only [fieldY, BitVec.getLsbD_ushiftRight, BitVec.getLsbD_and, BitVec.getLsbD_setWidth, BitVec.getLsbD_extractLsb']
  interval_cases k <;> simp

theorem operandByMask_fieldKK (w : Word) : operandByMask 0x00FF w = (fieldKK w).setWidth 16 := by
  rw [operandByMask, maskShift_table.2.2.2.1]
  refine BitVec.eq_of_getLsbD_eq fun k hk => ?_
  simp only [fieldKK, BitVec.getLsbD_ushiftRight, BitVec.getLsbD_and, BitVec.getLsbD_setWidth, BitVec.getLsbD_extractLsb']
  interval_cases k <;> simp

theorem operandByMask_fieldN (w : Word) : operandByMask 0x000F w = (fieldN w).setWidth 16 := by
  rw [operandByMask, maskShift_table.2.2.2.2]
  refine BitVec.eq_of_getLsbD_eq fun k hk => ?_
  simp only [fieldN, BitVec.getLsbD_ushiftRight, BitVec.getLsbD_and, BitVec.getLsbD_setWidth, BitVec.getLsbD_extractLsb']
  interval_cases k <;> simp

end Sys2Proof
end

