-- ==== Sys2Proof/Laws/PerInstr.lean ====
section
/-! SUPPORT. Statements made per instruction. The family Encoding: an instruction's word matches the row of the table of 30 R101
that stands for its shape, and that row reads the instruction back from it (30 R97: the operands round-trip). -/

namespace Sys2Proof.Laws

/-- The place of an instruction's row in the table (30 R101, column "#", from 0). -/
def Encoding.rowIndex : Instr → Nat
  | .cls => 0
  | .ret => 1
  | .sysAddr _ => 2
  | .jpAddr _ => 3
  | .callAddr _ => 4
  | .seVxByte _ _ => 5
  | .sneVxByte _ _ => 6
  | .seVxVy _ _ => 7
  | .ldVxByte _ _ => 8
  | .addVxByte _ _ => 9
  | .ldVxVy _ _ => 10
  | .orVxVy _ _ => 11
  | .andVxVy _ _ => 12
  | .xorVxVy _ _ => 13
  | .addVxVy _ _ => 14
  | .subVxVy _ _ => 15
  | .shrVxVy _ _ => 16
  | .subnVxVy _ _ => 17
  | .shlVxVy _ _ => 18
  | .sneVxVy _ _ => 19
  | .ldIAddr _ => 20
  | .jpV0Addr _ => 21
  | .rndVx _ _ => 22
  | .drwVxVyN _ _ _ => 23
  | .skpVx _ => 24
  | .sknpVx _ => 25
  | .ldVxDt _ => 26
  | .ldVxK _ => 27
  | .ldDtVx _ => 28
  | .ldStVx _ => 29
  | .addIVx _ => 30
  | .ldFVx _ => 31
  | .ldBVx _ => 32
  | .ldIVx _ => 33
  | .ldVxI _ => 34

/-- The instruction's row matches its word and reads the instruction back from it. -/
def Encoding.Statement (i : Instr) : Prop :=
  ∃ r, table[Encoding.rowIndex i]? = some r ∧ r.matchesWord (encode i) = true ∧ r.build (encode i) = i

theorem Encoding.cls : Encoding.Statement .cls := ⟨_, rfl, by decide, rfl⟩
theorem Encoding.ret : Encoding.Statement .ret := ⟨_, rfl, by decide, rfl⟩
theorem Encoding.sysAddr (nnn : Addr12) : Encoding.Statement (.sysAddr nnn) := by
  refine ⟨_, rfl, ?_, by simp [encode]⟩
  change (encode (.sysAddr nnn) &&& 0xF000#16 == 0x0000#16) = true
  simp only [encode, match_F000, wordA_toNat, decide_eq_true_iff, BitVec.reduceToNat]; omega
theorem Encoding.jpAddr (nnn : Addr12) : Encoding.Statement (.jpAddr nnn) := by
  refine ⟨_, rfl, ?_, by simp [encode]⟩
  change (encode (.jpAddr nnn) &&& 0xF000#16 == 0x1000#16) = true
  simp only [encode, match_F000, wordA_toNat, decide_eq_true_iff, BitVec.reduceToNat]; omega
theorem Encoding.callAddr (nnn : Addr12) : Encoding.Statement (.callAddr nnn) := by
  refine ⟨_, rfl, ?_, by simp [encode]⟩
  change (encode (.callAddr nnn) &&& 0xF000#16 == 0x2000#16) = true
  simp only [encode, match_F000, wordA_toNat, decide_eq_true_iff, BitVec.reduceToNat]; omega
theorem Encoding.seVxByte (x : Reg) (kk : Byte) : Encoding.Statement (.seVxByte x kk) := by
  refine ⟨_, rfl, ?_, by simp [encode]⟩
  change (encode (.seVxByte x kk) &&& 0xF000#16 == 0x3000#16) = true
  simp only [encode, match_F000, wordXB_toNat, decide_eq_true_iff, BitVec.reduceToNat]; omega
theorem Encoding.sneVxByte (x : Reg) (kk : Byte) : Encoding.Statement (.sneVxByte x kk) := by
  refine ⟨_, rfl, ?_, by simp [encode]⟩
  change (encode (.sneVxByte x kk) &&& 0xF000#16 == 0x4000#16) = true
  simp only [encode, match_F000, wordXB_toNat, decide_eq_true_iff, BitVec.reduceToNat]; omega
theorem Encoding.seVxVy (x : Reg) (y : Reg) : Encoding.Statement (.seVxVy x y) := by
  refine ⟨_, rfl, ?_, by simp [encode]⟩
  change (encode (.seVxVy x y) &&& 0xF00F#16 == 0x5000#16) = true
  simp only [encode, match_F00F, wordXY_toNat, decide_eq_true_iff, BitVec.reduceToNat]; omega
theorem Encoding.ldVxByte (x : Reg) (kk : Byte) : Encoding.Statement (.ldVxByte x kk) := by
  refine ⟨_, rfl, ?_, by simp [encode]⟩
  change (encode (.ldVxByte x kk) &&& 0xF000#16 == 0x6000#16) = true
  simp only [encode, match_F000, wordXB_toNat, decide_eq_true_iff, BitVec.reduceToNat]; omega
theorem Encoding.addVxByte (x : Reg) (kk : Byte) : Encoding.Statement (.addVxByte x kk) := by
  refine ⟨_, rfl, ?_, by simp [encode]⟩
  change (encode (.addVxByte x kk) &&& 0xF000#16 == 0x7000#16) = true
  simp only [encode, match_F000, wordXB_toNat, decide_eq_true_iff, BitVec.reduceToNat]; omega
theorem Encoding.ldVxVy (x : Reg) (y : Reg) : Encoding.Statement (.ldVxVy x y) := by
  refine ⟨_, rfl, ?_, by simp [encode]⟩
  change (encode (.ldVxVy x y) &&& 0xF00F#16 == 0x8000#16) = true
  simp only [encode, match_F00F, wordXY_toNat, decide_eq_true_iff, BitVec.reduceToNat]; omega
theorem Encoding.orVxVy (x : Reg) (y : Reg) : Encoding.Statement (.orVxVy x y) := by
  refine ⟨_, rfl, ?_, by simp [encode]⟩
  change (encode (.orVxVy x y) &&& 0xF00F#16 == 0x8001#16) = true
  simp only [encode, match_F00F, wordXY_toNat, decide_eq_true_iff, BitVec.reduceToNat]; omega
theorem Encoding.andVxVy (x : Reg) (y : Reg) : Encoding.Statement (.andVxVy x y) := by
  refine ⟨_, rfl, ?_, by simp [encode]⟩
  change (encode (.andVxVy x y) &&& 0xF00F#16 == 0x8002#16) = true
  simp only [encode, match_F00F, wordXY_toNat, decide_eq_true_iff, BitVec.reduceToNat]; omega
theorem Encoding.xorVxVy (x : Reg) (y : Reg) : Encoding.Statement (.xorVxVy x y) := by
  refine ⟨_, rfl, ?_, by simp [encode]⟩
  change (encode (.xorVxVy x y) &&& 0xF00F#16 == 0x8003#16) = true
  simp only [encode, match_F00F, wordXY_toNat, decide_eq_true_iff, BitVec.reduceToNat]; omega
theorem Encoding.addVxVy (x : Reg) (y : Reg) : Encoding.Statement (.addVxVy x y) := by
  refine ⟨_, rfl, ?_, by simp [encode]⟩
  change (encode (.addVxVy x y) &&& 0xF00F#16 == 0x8004#16) = true
  simp only [encode, match_F00F, wordXY_toNat, decide_eq_true_iff, BitVec.reduceToNat]; omega
theorem Encoding.subVxVy (x : Reg) (y : Reg) : Encoding.Statement (.subVxVy x y) := by
  refine ⟨_, rfl, ?_, by simp [encode]⟩
  change (encode (.subVxVy x y) &&& 0xF00F#16 == 0x8005#16) = true
  simp only [encode, match_F00F, wordXY_toNat, decide_eq_true_iff, BitVec.reduceToNat]; omega
theorem Encoding.shrVxVy (x : Reg) (y : Reg) : Encoding.Statement (.shrVxVy x y) := by
  refine ⟨_, rfl, ?_, by simp [encode]⟩
  change (encode (.shrVxVy x y) &&& 0xF00F#16 == 0x8006#16) = true
  simp only [encode, match_F00F, wordXY_toNat, decide_eq_true_iff, BitVec.reduceToNat]; omega
theorem Encoding.subnVxVy (x : Reg) (y : Reg) : Encoding.Statement (.subnVxVy x y) := by
  refine ⟨_, rfl, ?_, by simp [encode]⟩
  change (encode (.subnVxVy x y) &&& 0xF00F#16 == 0x8007#16) = true
  simp only [encode, match_F00F, wordXY_toNat, decide_eq_true_iff, BitVec.reduceToNat]; omega
theorem Encoding.shlVxVy (x : Reg) (y : Reg) : Encoding.Statement (.shlVxVy x y) := by
  refine ⟨_, rfl, ?_, by simp [encode]⟩
  change (encode (.shlVxVy x y) &&& 0xF00F#16 == 0x800E#16) = true
  simp only [encode, match_F00F, wordXY_toNat, decide_eq_true_iff, BitVec.reduceToNat]; omega
theorem Encoding.sneVxVy (x : Reg) (y : Reg) : Encoding.Statement (.sneVxVy x y) := by
  refine ⟨_, rfl, ?_, by simp [encode]⟩
  change (encode (.sneVxVy x y) &&& 0xF00F#16 == 0x9000#16) = true
  simp only [encode, match_F00F, wordXY_toNat, decide_eq_true_iff, BitVec.reduceToNat]; omega
theorem Encoding.ldIAddr (nnn : Addr12) : Encoding.Statement (.ldIAddr nnn) := by
  refine ⟨_, rfl, ?_, by simp [encode]⟩
  change (encode (.ldIAddr nnn) &&& 0xF000#16 == 0xA000#16) = true
  simp only [encode, match_F000, wordA_toNat, decide_eq_true_iff, BitVec.reduceToNat]; omega
theorem Encoding.jpV0Addr (nnn : Addr12) : Encoding.Statement (.jpV0Addr nnn) := by
  refine ⟨_, rfl, ?_, by simp [encode]⟩
  change (encode (.jpV0Addr nnn) &&& 0xF000#16 == 0xB000#16) = true
  simp only [encode, match_F000, wordA_toNat, decide_eq_true_iff, BitVec.reduceToNat]; omega
theorem Encoding.rndVx (x : Reg) (kk : Byte) : Encoding.Statement (.rndVx x kk) := by
  refine ⟨_, rfl, ?_, by simp [encode]⟩
  change (encode (.rndVx x kk) &&& 0xF000#16 == 0xC000#16) = true
  simp only [encode, match_F000, wordXB_toNat, decide_eq_true_iff, BitVec.reduceToNat]; omega
theorem Encoding.drwVxVyN (x : Reg) (y : Reg) (n : Nibble) : Encoding.Statement (.drwVxVyN x y n) := by
  refine ⟨_, rfl, ?_, by simp [encode]⟩
  change (encode (.drwVxVyN x y n) &&& 0xF000#16 == 0xD000#16) = true
  simp only [encode, match_F000, wordXY_toNat, decide_eq_true_iff, BitVec.reduceToNat]; omega
theorem Encoding.skpVx (x : Reg) : Encoding.Statement (.skpVx x) := by
  refine ⟨_, rfl, ?_, by simp [encode]⟩
  change (encode (.skpVx x) &&& 0xF0FF#16 == 0xE09E#16) = true
  simp only [encode, match_F0FF, wordX_toNat, decide_eq_true_iff, BitVec.reduceToNat]; omega
theorem Encoding.sknpVx (x : Reg) : Encoding.Statement (.sknpVx x) := by
  refine ⟨_, rfl, ?_, by simp [encode]⟩
  change (encode (.sknpVx x) &&& 0xF0FF#16 == 0xE0A1#16) = true
  simp only [encode, match_F0FF, wordX_toNat, decide_eq_true_iff, BitVec.reduceToNat]; omega
theorem Encoding.ldVxDt (x : Reg) : Encoding.Statement (.ldVxDt x) := by
  refine ⟨_, rfl, ?_, by simp [encode]⟩
  change (encode (.ldVxDt x) &&& 0xF0FF#16 == 0xF007#16) = true
  simp only [encode, match_F0FF, wordX_toNat, decide_eq_true_iff, BitVec.reduceToNat]; omega
theorem Encoding.ldVxK (x : Reg) : Encoding.Statement (.ldVxK x) := by
  refine ⟨_, rfl, ?_, by simp [encode]⟩
  change (encode (.ldVxK x) &&& 0xF0FF#16 == 0xF00A#16) = true
  simp only [encode, match_F0FF, wordX_toNat, decide_eq_true_iff, BitVec.reduceToNat]; omega
theorem Encoding.ldDtVx (x : Reg) : Encoding.Statement (.ldDtVx x) := by
  refine ⟨_, rfl, ?_, by simp [encode]⟩
  change (encode (.ldDtVx x) &&& 0xF0FF#16 == 0xF015#16) = true
  simp only [encode, match_F0FF, wordX_toNat, decide_eq_true_iff, BitVec.reduceToNat]; omega
theorem Encoding.ldStVx (x : Reg) : Encoding.Statement (.ldStVx x) := by
  refine ⟨_, rfl, ?_, by simp [encode]⟩
  change (encode (.ldStVx x) &&& 0xF0FF#16 == 0xF018#16) = true
  simp only [encode, match_F0FF, wordX_toNat, decide_eq_true_iff, BitVec.reduceToNat]; omega
theorem Encoding.addIVx (x : Reg) : Encoding.Statement (.addIVx x) := by
  refine ⟨_, rfl, ?_, by simp [encode]⟩
  change (encode (.addIVx x) &&& 0xF0FF#16 == 0xF01E#16) = true
  simp only [encode, match_F0FF, wordX_toNat, decide_eq_true_iff, BitVec.reduceToNat]; omega
theorem Encoding.ldFVx (x : Reg) : Encoding.Statement (.ldFVx x) := by
  refine ⟨_, rfl, ?_, by simp [encode]⟩
  change (encode (.ldFVx x) &&& 0xF0FF#16 == 0xF029#16) = true
  simp only [encode, match_F0FF, wordX_toNat, decide_eq_true_iff, BitVec.reduceToNat]; omega
theorem Encoding.ldBVx (x : Reg) : Encoding.Statement (.ldBVx x) := by
  refine ⟨_, rfl, ?_, by simp [encode]⟩
  change (encode (.ldBVx x) &&& 0xF0FF#16 == 0xF033#16) = true
  simp only [encode, match_F0FF, wordX_toNat, decide_eq_true_iff, BitVec.reduceToNat]; omega
theorem Encoding.ldIVx (x : Reg) : Encoding.Statement (.ldIVx x) := by
  refine ⟨_, rfl, ?_, by simp [encode]⟩
  change (encode (.ldIVx x) &&& 0xF0FF#16 == 0xF055#16) = true
  simp only [encode, match_F0FF, wordX_toNat, decide_eq_true_iff, BitVec.reduceToNat]; omega
theorem Encoding.ldVxI (x : Reg) : Encoding.Statement (.ldVxI x) := by
  refine ⟨_, rfl, ?_, by simp [encode]⟩
  change (encode (.ldVxI x) &&& 0xF0FF#16 == 0xF065#16) = true
  simp only [encode, match_F0FF, wordX_toNat, decide_eq_true_iff, BitVec.reduceToNat]; omega

end Sys2Proof.Laws
end

