-- ==== Sys2Proof/Tests/Slice0.lean ====
section
/-! SUPPORT. Small tests. Expected results come from the vectors of 95_test_vectors.md, whose id each test names, or from the rule it
names. The second part shows, for every obligation that has hypotheses, concrete values that meet them, one for each clause. -/

namespace Sys2Proof.Tests

open Sys2Proof Sys2Proof.Machine

/-! ## Small states -/

/-- A machine just created, with some registers written. -/
def regs (l : List (Reg × Byte)) : State := l.foldl (fun s p => s.setReg p.1 p.2) State.reset

/-- Bytes placed in memory. -/
def withBytes (a : Nat) (bs : List Byte) (s : State) : State := s.withMem (s.mem.writeAll a bs)

/-- A running core about to fetch the word. -/
def boot (w : Nat) (s : State) : State := s.withFetchWord 16 w

/-- Whether the step from s gives a next state with the property. -/
def ends (s : State) (p : State → Bool) : Bool :=
  match step s with
  | .next t => p t
  | .fault _ => false
  | .refused _ => false

/-- Whether an instruction gives a next state with the property. -/
def gives (o : Host.Outcome State Fault Refusal) (p : State → Bool) : Bool :=
  match o with
  | .next t => p t
  | .fault _ => false
  | .refused _ => false

/-- Whether the run ended for the cause with the detail. -/
def halted (e : Err) (w : Word) (t : State) : Bool := t.run == .halted && t.err == e && t.errWord == w

/-- A state whose next turn is the host's. -/
def hosted (e : HostEvent) (s : State) : State := s.withSchedule [.host e]

/-- Rows 0 and 1 of a sprite, I pointing at it, only pixel (0, 0) lit. -/
def oneLit (bs : List Byte) : State := ((withBytes 0x300 bs State.reset).withI 0x300).withFb (State.reset.fb.setPixel 0 0 true)

/-! ## Well-formed instructions: the one ill-formed shape is SYS with the address of CLS or RET (30 R99, R104) -/

theorem test_wf_sys_cls_refused : Instr.wf (.sysAddr 0x0E0) = false := by decide
theorem test_wf_sys_ret_refused : Instr.wf (.sysAddr 0x0EE) = false := by decide
theorem test_wf_sys_neighbour : Instr.wf (.sysAddr 0x0E1) = true := by decide

/-! ## Decoding: vectors E1 to E43 -/

theorem test_decode_00E0 : decodeWord 0x00E0 = .ok .cls := by decide
theorem test_decode_00EE : decodeWord 0x00EE = .ok .ret := by decide
theorem test_decode_0FFF : decodeWord 0x0FFF = .ok (.sysAddr 0xFFF) := by decide
theorem test_decode_1F2A : decodeWord 0x1F2A = .ok (.jpAddr 0xF2A) := by decide
theorem test_decode_2EA0 : decodeWord 0x2EA0 = .ok (.callAddr 0xEA0) := by decide
theorem test_decode_3A42 : decodeWord 0x3A42 = .ok (.seVxByte 0xA 0x42) := by decide
theorem test_decode_4A42 : decodeWord 0x4A42 = .ok (.sneVxByte 0xA 0x42) := by decide
theorem test_decode_5AB0 : decodeWord 0x5AB0 = .ok (.seVxVy 0xA 0xB) := by decide
theorem test_decode_6CFF : decodeWord 0x6CFF = .ok (.ldVxByte 0xC 0xFF) := by decide
theorem test_decode_7C01 : decodeWord 0x7C01 = .ok (.addVxByte 0xC 0x01) := by decide
theorem test_decode_8AB0 : decodeWord 0x8AB0 = .ok (.ldVxVy 0xA 0xB) := by decide
theorem test_decode_8AB1 : decodeWord 0x8AB1 = .ok (.orVxVy 0xA 0xB) := by decide
theorem test_decode_8AB2 : decodeWord 0x8AB2 = .ok (.andVxVy 0xA 0xB) := by decide
theorem test_decode_8AB3 : decodeWord 0x8AB3 = .ok (.xorVxVy 0xA 0xB) := by decide
theorem test_decode_8AB4 : decodeWord 0x8AB4 = .ok (.addVxVy 0xA 0xB) := by decide
theorem test_decode_8AB5 : decodeWord 0x8AB5 = .ok (.subVxVy 0xA 0xB) := by decide
theorem test_decode_8AB6 : decodeWord 0x8AB6 = .ok (.shrVxVy 0xA 0xB) := by decide
theorem test_decode_8AB7 : decodeWord 0x8AB7 = .ok (.subnVxVy 0xA 0xB) := by decide
theorem test_decode_8ABE : decodeWord 0x8ABE = .ok (.shlVxVy 0xA 0xB) := by decide
theorem test_decode_9AB0 : decodeWord 0x9AB0 = .ok (.sneVxVy 0xA 0xB) := by decide
theorem test_decode_A123 : decodeWord 0xA123 = .ok (.ldIAddr 0x123) := by decide
theorem test_decode_B123 : decodeWord 0xB123 = .ok (.jpV0Addr 0x123) := by decide
theorem test_decode_C10F : decodeWord 0xC10F = .ok (.rndVx 0x1 0x0F) := by decide
theorem test_decode_D123 : decodeWord 0xD123 = .ok (.drwVxVyN 0x1 0x2 0x3) := by decide
theorem test_decode_E19E : decodeWord 0xE19E = .ok (.skpVx 0x1) := by decide
theorem test_decode_E1A1 : decodeWord 0xE1A1 = .ok (.sknpVx 0x1) := by decide
theorem test_decode_F107 : decodeWord 0xF107 = .ok (.ldVxDt 0x1) := by decide
theorem test_decode_F10A : decodeWord 0xF10A = .ok (.ldVxK 0x1) := by decide
theorem test_decode_F115 : decodeWord 0xF115 = .ok (.ldDtVx 0x1) := by decide
theorem test_decode_F118 : decodeWord 0xF118 = .ok (.ldStVx 0x1) := by decide
theorem test_decode_F11E : decodeWord 0xF11E = .ok (.addIVx 0x1) := by decide
theorem test_decode_F129 : decodeWord 0xF129 = .ok (.ldFVx 0x1) := by decide
theorem test_decode_F133 : decodeWord 0xF133 = .ok (.ldBVx 0x1) := by decide
theorem test_decode_F155 : decodeWord 0xF155 = .ok (.ldIVx 0x1) := by decide
theorem test_decode_FF65 : decodeWord 0xFF65 = .ok (.ldVxI 0xF) := by decide

/-- E11, E22, E25, E32, E42, E43. -/
theorem test_decode_unmatched : [0x5AB1, 0x8AB8, 0x8ABD, 0x8ABF, 0x9AB1, 0xE19F, 0xE100, 0xF100, 0xF130, 0xFFFF].all
    (fun w => decodeWord w == .error (.noMatch w)) = true := by decide

/-- The bytes of a word, high byte first, and what follows them is left. -/
theorem test_decode_bytes : decodeBytes [0x6A, 0x55, 0x77] = .ok (.ldVxByte 0xA 0x55, [0x77]) := by decide

/-- 30 R106, as in programs P1, P2 and P4. -/
theorem test_assembly : [0x8014, 0x3004, 0x120C, 0xF255, 0xF107].map (fun w => (decodeWord w).toOption.map assembly) =
    [some "ADD V0, V1", some "SE V0, 0x04", some "JP 0x20C", some "LD [I], V2", some "LD V1, DT"] := by decide

/-! ## Control transfer -/

/-- F1. -/
theorem test_jp : ends (boot 0x1F2A State.reset) (fun t => t.pc == 0x0F2A && t.v == State.reset.v) = true := by decide
/-- F2. -/
theorem test_call : ends (boot 0x2EA0 State.reset) (fun t => t.stack[0] == 0x0202 && t.sp == 1 && t.pc == 0x0EA0) = true := by
  decide
/-- F3. -/
theorem test_call_full : ends (boot 0x2400 ((State.reset.withSp 16).withPc 0x300))
    (fun t => halted .stackOverflow 0x2400 t && t.pc == 0x0302 && t.sp == 16 && t.stack == State.reset.stack) = true := by decide
/-- F4. -/
theorem test_ret : ends (boot 0x00EE (((State.reset.withStack ((State.reset.stack.set 0 0x222).set 1 0x456)).withSp 2).withPc 0x600))
    (fun t => t.pc == 0x0456 && t.sp == 1 && t.stack[1] == 0x0456) = true := by decide
/-- F5. -/
theorem test_ret_empty : ends (boot 0x00EE State.reset)
    (fun t => halted .stackUnderflow 0x00EE t && t.pc == 0x0202 && t.sp == 0) = true := by decide
/-- F6. -/
theorem test_se_byte : ends (boot 0x332A (regs [(3, 0x2A)])) (fun t => t.pc == 0x0204) = true := by decide
/-- F7. -/
theorem test_se_byte_not : ends (boot 0x3300 (regs [(3, 0x2A)])) (fun t => t.pc == 0x0202) = true := by decide
/-- F8. -/
theorem test_sne_byte_not : ends (boot 0x432A (regs [(3, 0x2A)])) (fun t => t.pc == 0x0202) = true := by decide
/-- F9. -/
theorem test_sne_byte : ends (boot 0x4300 (regs [(3, 0x2A)])) (fun t => t.pc == 0x0204) = true := by decide
/-- F10. -/
theorem test_se_reg : ends (boot 0x5120 (regs [(1, 5), (2, 5)])) (fun t => t.pc == 0x0204) = true := by decide
/-- F11. -/
theorem test_se_reg_not : ends (boot 0x5120 (regs [(1, 5), (2, 6)])) (fun t => t.pc == 0x0202) = true := by decide
/-- F13. -/
theorem test_sne_reg : ends (boot 0x9120 (regs [(1, 5), (2, 6)])) (fun t => t.pc == 0x0204) = true := by decide
/-- F14. -/
theorem test_sne_reg_same : ends (boot 0x9330 (regs [(3, 7)])) (fun t => t.pc == 0x0202) = true := by decide
/-- F15. -/
theorem test_jp_v0 : ends (boot 0xB300 (regs [(0, 0x04), (3, 0x80)])) (fun t => t.pc == 0x0304) = true := by decide
/-- F16. -/
theorem test_jp_v0_top : ends (boot 0xBFFF (regs [(0, 0xFF)])) (fun t => t.pc == 0x10FE && t.run == .running) = true := by decide
/-- F17. -/
theorem test_sys : ends (boot 0x0123 State.reset)
    (fun t => t.pc == 0x0202 && t.run == .running && t.v == State.reset.v && t.sp == 0) = true := by decide
/-- F19. -/
theorem test_fetch_top : ends (boot 0x6A55 (State.reset.withPc 0x0FFF))
    (fun t => halted .addressOutOfRange 0x1000 t && t.pc == 0x0FFF) = true := by decide
/-- F20. -/
theorem test_fetch_last : ends (boot 0x1200 (State.reset.withPc 0x0FFE)) (fun t => t.pc == 0x0200) = true := by decide
/-- F21. -/
theorem test_fetch_odd : ends (boot 0x6A55 (State.reset.withPc 0x0201)) (fun t => t.reg 10 == 0x55 && t.pc == 0x0203) = true := by
  decide

/-! ## Arithmetic -/

/-- A1. -/
theorem test_ld_byte : ends (boot 0x61AB (regs [(1, 0x11)])) (fun t => t.reg 1 == 0xAB && t.reg vf == 0) = true := by decide
/-- A2. -/
theorem test_add_byte_wraps : ends (boot 0x7101 (regs [(1, 0xFF)])) (fun t => t.reg 1 == 0 && t.reg vf == 0) = true := by decide
/-- A4. -/
theorem test_ld_reg : ends (boot 0x8120 (regs [(2, 0x5A)])) (fun t => t.reg 1 == 0x5A && t.reg 2 == 0x5A) = true := by decide
/-- A5. -/
theorem test_or : ends (boot 0x8121 (regs [(1, 0x0F), (2, 0xF0), (vf, 1)])) (fun t => t.reg 1 == 0xFF && t.reg vf == 1) = true := by
  decide
/-- A6. -/
theorem test_and : ends (boot 0x8122 (regs [(1, 0x3C), (2, 0x0F), (vf, 1)])) (fun t => t.reg 1 == 0x0C && t.reg vf == 1) = true := by
  decide
/-- A7. -/
theorem test_xor : ends (boot 0x8123 (regs [(1, 0xFF), (2, 0x0F), (vf, 1)])) (fun t => t.reg 1 == 0xF0 && t.reg vf == 1) = true := by
  decide
/-- A9, S4. -/
theorem test_add_carry : ends (boot 0x8124 (regs [(1, 0xFF), (2, 0x01)])) (fun t => t.reg 1 == 0 && t.reg vf == 1) = true := by
  decide
/-- A13. -/
theorem test_add_into_vf : ends (boot 0x8F14 (regs [(1, 0xF5), (vf, 0x10)])) (fun t => t.reg vf == 0x05) = true := by decide
/-- A16. -/
theorem test_sub_borrow : ends (boot 0x8125 (regs [(1, 3), (2, 5), (vf, 1)])) (fun t => t.reg 1 == 0xFE && t.reg vf == 0) = true := by
  decide
/-- A17. -/
theorem test_sub_equal : ends (boot 0x8125 (regs [(1, 5), (2, 5), (vf, 1)])) (fun t => t.reg 1 == 0 && t.reg vf == 0) = true := by
  decide
/-- A19. -/
theorem test_subn : ends (boot 0x8127 (regs [(1, 3), (2, 5)])) (fun t => t.reg 1 == 0x02 && t.reg vf == 1) = true := by decide
/-- A20. -/
theorem test_subn_borrow : ends (boot 0x8127 (regs [(1, 5), (2, 3), (vf, 1)])) (fun t => t.reg 1 == 0xFE && t.reg vf == 0) = true := by
  decide
/-- A22. -/
theorem test_shr : ends (boot 0x8126 (regs [(1, 0x05), (2, 0xFF)]))
    (fun t => t.reg 1 == 0x02 && t.reg vf == 1 && t.reg 2 == 0xFF) = true := by decide
/-- A28. -/
theorem test_shr_vf : ends (boot 0x8F06 (regs [(vf, 0x03)])) (fun t => t.reg vf == 0x01) = true := by decide
/-- A25. -/
theorem test_shl : ends (boot 0x812E (regs [(1, 0x81)])) (fun t => t.reg 1 == 0x02 && t.reg vf == 1 && t.reg 2 == 0) = true := by
  decide
/-- A29. -/
theorem test_shl_vf : ends (boot 0x8F0E (regs [(vf, 0x81)])) (fun t => t.reg vf == 0x02) = true := by decide
/-- A31, for whatever byte is drawn. -/
theorem test_rnd_masked : gives (exec (.rndVx 1 0x00) (regs [(1, 0x55)])) (fun t => t.reg 1 == 0 && t.draws == 1) = true := by
  simp [gives, exec, execRndVx, drawRand, regs]
  decide

/-! ## The framebuffer -/

/-- G12. -/
theorem test_cls : ends (boot 0x00E0 ((((oneLit []).withColl true).withRepaint true).setReg vf 1))
    (fun t => t.fb == State.reset.fb && !t.coll && !t.repaint && t.reg vf == 1) = true := by decide
/-- G3. -/
theorem test_drw_wraps : gives (exec (.drwVxVyN 0 1 1) (((withBytes 0x300 [0xFF] (regs [(0, 60)])).withI 0x300)))
    (fun t => t.fb.packedByte 7 == 0x0F && t.fb.packedByte 0 == 0xF0 && t.fb.packedByte 1 == 0 && t.reg vf == 0 && t.repaint)
    = true := by decide +kernel
/-- G8. -/
theorem test_drw_collision : gives (exec (.drwVxVyN 0 1 2) (oneLit [0x80, 0x01]))
    (fun t => !t.fb.pixel 0 0 && t.fb.pixel 7 1 && t.reg vf == 1 && t.coll) = true := by decide +kernel
/-- G15. -/
theorem test_ld_f_high : ends (boot 0xF129 (regs [(1, 0xFF)])) (fun t => t.i == 0x04FB) = true := by decide
/-- G13. -/
theorem test_ld_f : ends (boot 0xF129 (regs [(1, 0x0F)])) (fun t => t.i == 0x004B) = true := by decide

/-! ## Loads and stores -/

/-- M1. -/
theorem test_ld_i : ends (boot 0xAFFF State.reset) (fun t => t.i == 0x0FFF) = true := by decide
/-- M4. -/
theorem test_add_i_wraps : ends (boot 0xF21E ((regs [(2, 1)]).withI 0xFFFF)) (fun t => t.i == 0) = true := by decide
/-- M3. -/
theorem test_add_i_no_flag : ends (boot 0xF21E ((regs [(2, 1)]).withI 0x0FFF)) (fun t => t.i == 0x1000 && t.reg vf == 0) = true := by
  decide
/-- M5. -/
theorem test_bcd : ends (boot 0xF033 ((regs [(0, 0xEA)]).withI 0x300))
    (fun t => t.mem.read 0x300 == 2 && t.mem.read 0x301 == 3 && t.mem.read 0x302 == 4 && t.i == 0x300) = true := by decide
/-- M10. -/
theorem test_bcd_top : ends (boot 0xF033 ((regs [(0, 0x7B)]).withI 0x0FFE))
    (fun t => t.mem.read 0xFFE == 1 && t.mem.read 0xFFF == 2 && halted .addressOutOfRange 0x1000 t) = true := by decide
/-- M11. -/
theorem test_dump_one : ends (boot 0xF055 ((withBytes 0x301 [0x77] (regs [(0, 0xAA), (1, 0xBB)])).withI 0x300))
    (fun t => t.mem.read 0x300 == 0xAA && t.mem.read 0x301 == 0x77 && t.i == 0x300) = true := by decide
/-- M13. -/
theorem test_dump_top : ends (boot 0xF155 ((regs [(0, 0x11), (1, 0x22)]).withI 0x0FFF))
    (fun t => t.mem.read 0xFFF == 0x11 && halted .addressOutOfRange 0x1000 t) = true := by decide
/-- M15. -/
theorem test_load_glyph : ends (boot 0xF465 State.reset)
    (fun t => t.reg 0 == 0xF0 && t.reg 1 == 0x90 && t.reg 2 == 0x90 && t.reg 3 == 0x90 && t.reg 4 == 0xF0 && t.reg 5 == 0) = true := by
  decide
/-- M16. -/
theorem test_load_outside : ends (boot 0xF065 ((regs [(0, 0x33)]).withI 0x1000))
    (fun t => halted .addressOutOfRange 0x1000 t && t.reg 0 == 0x33) = true := by decide

/-! ## Timers and keys -/

/-- T1. -/
theorem test_ld_dt : ends (boot 0xF015 (regs [(0, 3)])) (fun t => t.dt == 3) = true := by decide
/-- T2. -/
theorem test_ld_st : ends (boot 0xF018 (regs [(0, 0x10)])) (fun t => t.st == 0x10 && sound t) = true := by decide
/-- T6. -/
theorem test_ld_vx_dt : ends (boot 0xF107 ((State.reset.withDt 1).withCyc 7)) (fun t => t.reg 1 == 1 && t.dt == 0 && t.cyc == 0) = true := by
  decide
/-- T9. -/
theorem test_skp : ends (boot 0xE19E ((regs [(1, 5)]).withKeys 0x0020)) (fun t => t.pc == 0x0204) = true := by decide
/-- T13. -/
theorem test_skp_high : ends (boot 0xE19E ((regs [(1, 0x15)]).withKeys 0xFFFF)) (fun t => t.pc == 0x0202) = true := by decide
/-- T11. -/
theorem test_sknp : ends (boot 0xE1A1 ((regs [(1, 5)]).withKeys 0x0020)) (fun t => t.pc == 0x0202) = true := by decide
/-- T14. -/
theorem test_sknp_high : ends (boot 0xE1A1 ((regs [(1, 0x15)]).withKeys 0xFFFF)) (fun t => t.pc == 0x0204) = true := by decide
/-- T15, the execute. -/
theorem test_ld_k : ends (boot 0xF30A ((State.reset.withKeys 0x0080).withCyc 2))
    (fun t => t.run == .waitKey 3 && !t.keyWake && t.pc == 0x0202 && t.cyc == 2) = true := by decide
/-- T15, the resume. -/
theorem test_ld_k_resumes : ends (((((State.reset.withRun (.waitKey 3)).withKeyWake true).withLastKey 7).withCyc 2).withDt 9)
    (fun t => t.reg 3 == 7 && t.run == .running && t.cyc == 3 && t.dt == 9) = true := by decide

/-! ## The host and the end of a run -/

/-- T17. -/
theorem test_stop_in_wait : ends (((regs [(3, 0x55)]).withRun (.waitKey 3)).withStopReq true)
    (fun t => halted .stop 0 t && t.reg 3 == 0x55) = true := by decide
/-- T7. -/
theorem test_set_rate : ends (hosted (.setRate 240) (State.reset.withCyc 5)) (fun t => t.rate == 240 && t.refresh == 4 && t.cyc == 5)
    = true := by decide
/-- X1. -/
theorem test_unknown : ends (boot 0xFFFF (State.reset.withCyc 3))
    (fun t => halted .unknownInstruction 0xFFFF t && t.pc == 0x0202 && t.cyc == 3) = true := by decide
/-- X2. -/
theorem test_cleanup : ends ((((boot 0xFFFF State.reset).withRun .halted).withErr .unknownInstruction).withErrWord 0xFFFF)
    (fun t => t.run == .idle && t.err == .unknownInstruction && t.errWord == 0xFFFF && t.mem == [] && t.pc == 0x200 &&
      t.emitted == [.runEnded .unknownInstruction 0xFFFF]) = true := by decide
/-- X4. -/
theorem test_stop_first : ends (((boot 0x6001 State.reset).withStopReq true).withSaveReq true)
    (fun t => halted .stop 0 t && t.emitted == [] && t.reg 0 == 0) = true := by decide
/-- X8. -/
theorem test_restore_truncated : ends (hosted (.restore none) (State.reset.withPc 0x300))
    (fun t => t.pc == 0x300 && t.emitted == [.invalidSaveFile]) = true := by decide

/-! ## Witnesses: values that meet the hypotheses of the obligations, clause by clause, at the boundaries of their ranges -/

/-- A core running at an address, two bytes there. -/
def running (pc : Nat) (w : Nat) : State := boot w (State.reset.withPc (BitVec.ofNat 16 pc))

/-- A core waiting for a key into V[3]. -/
def waiting : State := State.reset.withRun (.waitKey 3)

/-- Memory with one byte written is in canonical form. -/
theorem wf_one : Memory.wf [(0x0300, 0x01)] := by decide

/-! ### Decoding -/

theorem witness_DecodeOfEncodeGivesTheInstruction : WellFormed (.sysAddr 0x0E1) ∧ WellFormed (.sysAddr 0xFFF) ∧ WellFormed .ret := by
  decide
theorem witness_EncodeOfDecodeGivesTheWord : decodeWord 0x0FFF = .ok (.sysAddr 0xFFF) := by decide
theorem witness_OnlyClsAndRetWordsMatchTwoRows : ∃ r ∈ table, ∃ q ∈ table,
    r.matchesWord 0x00E0 = true ∧ q.matchesWord 0x00E0 = true ∧ r.mnemonic ≠ q.mnemonic := by decide

/-! ### The cycle -/

theorem witness_fetching : (running 0x0FFE 0x6A55).Fetching := ⟨by decide, by decide, by decide⟩
theorem witness_FetchReadsBigEndianAndAdvances_ok : (running 0x0FFE 0x6A55).pc.toNat < 0x0FFF := by decide
theorem witness_FetchReadsBigEndianAndAdvances_last : (running 0x0FFF 0).pc.toNat = 0x0FFF := by decide
theorem witness_FetchReadsBigEndianAndAdvances_above : 0x1000 ≤ (running 0x1000 0).pc.toNat := by decide
theorem witness_StepRunsTheDecodedInstruction :
    (running 0x0FFE 0x6A55).Fetching ∧ (running 0x0FFE 0x6A55).pc.toNat < 0x0FFF ∧
    decodeWord (wordAtPc (running 0x0FFE 0x6A55)) = .ok (.ldVxByte 0xA 0x55) :=
  ⟨witness_fetching, by decide, by decide⟩
theorem witness_UnknownWordHaltsTheRun :
    (running 0x0FFE 0xFFFF).Fetching ∧ (running 0x0FFE 0xFFFF).pc.toNat < 0x0FFF ∧
    decodeWord (wordAtPc (running 0x0FFE 0xFFFF)) = .error (.noMatch 0xFFFF) :=
  ⟨⟨by decide, by decide, by decide⟩, by decide, by decide⟩
theorem witness_FetchOutsideMemoryHaltsTheRun_last :
    (running 0x0FFF 0).Fetching ∧ 0x0FFF ≤ (running 0x0FFF 0).pc.toNat := ⟨⟨by decide, by decide, by decide⟩, by decide⟩
theorem witness_FetchOutsideMemoryHaltsTheRun_above :
    (running 0xFFFF 0).Fetching ∧ 0x0FFF ≤ (running 0xFFFF 0).pc.toNat := ⟨⟨by decide, by decide, by decide⟩, by decide⟩
theorem witness_StopAndSaveAreSampledAtTheBoundary_stop :
    let s := ((running 0x200 0).withStopReq true).withSaveReq true
    s.turn = .core ∧ s.run = .running ∧ s.stopReq = true := by decide
theorem witness_StopAndSaveAreSampledAtTheBoundary_save :
    ((running 0x200 0).withSaveReq true).Fetching ∧ ((running 0x200 0).withSaveReq true).saveReq = true :=
  ⟨⟨by decide, by decide, by decide⟩, by decide⟩
theorem witness_KeyWaitStandsStillOrStops : waiting.turn = .core ∧ waiting.run = .waitKey 3 ∧
    waiting.stopReq = false ∧ waiting.keyWake = false := by decide
theorem witness_KeyWaitStandsStillOrStops_stop : (waiting.withStopReq true).stopReq = true ∧
    (waiting.withStopReq true).keyWake = false ∧ (waiting.withStopReq true).turn = .core ∧
    (waiting.withStopReq true).run = .waitKey 3 := by decide
theorem witness_KeyWaitStandsStillOrStops_both :
    let s := (waiting.withStopReq true).withKeyWake true
    s.stopReq = true ∧ s.keyWake = true ∧ s.turn = .core ∧ s.run = .waitKey 3 := by decide
theorem witness_KeyWaitEndsWithTheLastKey_counts :
    let s := (waiting.withKeyWake true).withCyc 6
    s.turn = .core ∧ s.run = .waitKey 3 ∧ s.keyWake = true ∧ s.stopReq = false ∧ s.cyc + 1 < s.refresh := by decide
theorem witness_KeyWaitEndsWithTheLastKey_ticks :
    let s := (waiting.withKeyWake true).withCyc 7
    s.turn = .core ∧ s.run = .waitKey 3 ∧ s.keyWake = true ∧ s.stopReq = false ∧ s.refresh ≤ s.cyc + 1 := by decide
theorem witness_TickCountsDownToZeroAndStays :
    0 < (State.reset.withDt 1).dt.toNat ∧ State.reset.dt = 0 ∧ 0 < (State.reset.withSt 1).st.toNat ∧ State.reset.st = 0 := by
  decide
theorem witness_EndOfCycleTicksEveryRefreshCycles : (State.reset.withCyc 6).cyc + 1 < State.reset.refresh ∧
    State.reset.refresh ≤ (State.reset.withCyc 7).cyc + 1 ∧ 1 ≤ (State.reset.withRefresh 1).refresh := by decide
theorem witness_HaltedMachineIsCleanedUp :
    (State.reset.withRun .halted).turn = .core ∧ (State.reset.withRun .halted).run = .halted := by decide
theorem witness_HaltedMachineIsCleanedUp_reset :
    (hosted .reset (regs [(1, 0x55)])).turn = .host .reset ∧ (hosted .reset (regs [(1, 0x55)])).run = .idle := by decide

/-! ### Invariants -/

theorem witness_inv : (running 0x0FFE 0x6A55).Inv :=
  ⟨by decide, by decide, by decide, by decide, by decide, by decide, by decide⟩
theorem witness_EveryStepKeepsTheInvariant :
    (running 0x0FFE 0x6A55).Inv ∧ ends (running 0x0FFE 0x6A55) (fun _ => true) = true := ⟨witness_inv, by decide⟩
theorem witness_EveryStepKeepsThePcBound :
    (running 0x0FFE 0x6A55).PcBound ∧ (∀ b, (running 0x0FFE 0x6A55).turn ≠ .host (.restore b)) ∧
    ends (running 0x0FFE 0x6A55) (fun _ => true) = true :=
  ⟨⟨by decide, by decide⟩, fun b h => Turn.noConfusion h, by decide⟩
theorem witness_CoreStepAlwaysHasANextState : (running 0x0FFE 0x6A55).Inv ∧ (running 0x0FFE 0x6A55).turn = .core :=
  ⟨witness_inv, by decide⟩
theorem witness_SelfJumpGoesOnForEver : (running 0x200 0x1200).SelfJump :=
  ⟨by decide, by decide, by decide, by decide, by decide⟩
theorem witness_SelfJumpGoesOnForEver_last : (running 0x0FFE 0x1FFE).SelfJump :=
  ⟨by decide, by decide, by decide, by decide, by decide⟩

/-! ### The host's events -/

theorem witness_KeyReleaseClearsItsBitAlone : (hosted (.keyUp 15) waiting).turn = .host (.keyUp 15) ∧ 15 < 16 := by decide
theorem witness_KeyPressSetsItsBitAndWakesAWait :
    (hosted (.keyDown 15) waiting).turn = .host (.keyDown 15) ∧ (hosted (.keyDown 15) waiting).run = .waitKey 3 := by decide
theorem witness_KeyPressSetsItsBitAndWakesAWait_none :
    (hosted (.keyDown 0) State.reset).turn = .host (.keyDown 0) ∧ ∀ x, (hosted (.keyDown 0) State.reset).run ≠ .waitKey x :=
  ⟨by decide, fun _ h => Run.noConfusion h⟩
theorem witness_ClsClearsTheScreenAndItsFlags : (hosted .reset State.reset).turn = .host .reset ∧
    (hosted .reset State.reset).run = .idle ∧ (State.reset.withRun .halted).turn = .core ∧
    (State.reset.withRun .halted).run = .halted := by decide
theorem witness_StopEventOnlySetsItsLatch_boundary :
    let s := (running 0x200 0).withStopReq true
    s.turn = .core ∧ s.run = .running ∧ s.stopReq = true := by decide
theorem witness_StopEventOnlySetsItsLatch : (hosted .stop waiting).turn = .host .stop ∧
    (hosted .start State.reset).turn = .host .start ∧ (hosted .start State.reset).run = .idle ∧
    (State.reset.withRun .halted).turn = .core := by decide
theorem witness_StartSaveAndRateWriteTheirRegisters : (hosted .start State.reset).turn = .host .start ∧
    (hosted .start State.reset).run = .idle ∧ (hosted .requestSave waiting).turn = .host .requestSave ∧
    (hosted (.setRate 60) waiting).turn = .host (.setRate 60) ∧ 60 ≤ 60 := by decide
theorem witness_LoadRomCopiesTheImage :
    let bytes : List Byte := List.replicate 3584 0x12
    (hosted (.loadRom bytes) State.reset).turn = .host (.loadRom bytes) ∧ (hosted (.loadRom bytes) State.reset).run = .idle ∧
    (hosted (.loadRom bytes) State.reset).mem.wf ∧ bytes.length ≤ 3584 :=
  ⟨rfl, rfl, Memory.wf_nil, by rw [List.length_replicate]⟩
theorem witness_LoadRomCopiesTheImage_large :
    let bytes : List Byte := List.replicate 3585 0x12
    (hosted (.loadRom bytes) State.reset).turn = .host (.loadRom bytes) ∧ (hosted (.loadRom bytes) State.reset).run = .idle ∧
    (hosted (.loadRom bytes) State.reset).mem.wf ∧ 3584 < bytes.length :=
  ⟨rfl, rfl, Memory.wf_nil, by rw [List.length_replicate]; decide⟩
theorem witness_EventsOutOfPlaceAreRefused :
    (hosted .reset waiting).run ≠ .idle ∧ (hosted .reset waiting).turn = .host .reset ∧
    (hosted (.restore none) waiting).run ≠ .running ∧ (hosted (.restore none) waiting).turn = .host (.restore none) ∧
    (hosted (.keyDown 16) waiting).turn = .host (.keyDown 16) ∧ 16 ≤ 16 ∧
    (hosted (.setRate 59) waiting).turn = .host (.setRate 59) ∧ 59 < 60 := by decide
theorem witness_SnapshotThenRestoreGivesTheStateBack :
    let t := hosted (.restore (some (snapshot (regs [(1, 0x55)])))) State.reset
    (regs [(1, 0x55)]).mem.wf ∧ (regs [(1, 0x55)]).sp ≤ 16 ∧
    t.turn = .host (.restore (some (snapshot (regs [(1, 0x55)])))) ∧ t.run = .idle :=
  ⟨Memory.wf_nil, by decide, rfl, rfl⟩
theorem witness_SnapshotThenRestoreGivesTheStateBack_bad :
    let t := hosted (.restore (some { snapshot State.reset with sp := 17 })) State.reset
    t.turn = .host (.restore (some { snapshot State.reset with sp := 17 })) ∧ t.run = .idle ∧
    ∀ c, some { snapshot State.reset with sp := 17 } = some c → c.wf = false :=
  ⟨rfl, rfl, fun c h => by rw [← Option.some.inj h]; simp [Blob.wf]⟩

/-! ### Memory and the stack -/

theorem witness_StoreChangesExactlyOneByte : (State.reset.withMem [(0x0300, 0x01)]).mem.wf ∧ (0x0FFF : Word).toNat ≤ 0x0FFF ∧
    0x0FFF < (0x1000 : Word).toNat := ⟨wf_one, by decide, by decide⟩
theorem witness_PushStoresTheAddressOrOverflows : (State.reset.withSp 15).sp < 16 ∧ (State.reset.withSp 16).sp = 16 := by decide
theorem witness_PushedAddressesPopInReverse : (State.reset.withSp 14).sp + [0x0202, 0x0456].length ≤ 16 ∧
    (State.reset.withSp 16).sp ≤ 16 ∧ 16 < (State.reset.withSp 16).sp + [0x0202].length ∧ State.reset.sp = 0 := by decide
theorem witness_CallPushesTheReturnAddress : (State.reset.withSp 15).sp < 16 ∧ (State.reset.withSp 16).sp = 16 := by decide
theorem witness_RetPopsTheReturnAddress : 1 ≤ (State.reset.withSp 1).sp ∧ (State.reset.withSp 1).sp ≤ 16 ∧
    1 ≤ (State.reset.withSp 16).sp ∧ (State.reset.withSp 16).sp ≤ 16 ∧ State.reset.sp = 0 := by decide

/-! ### Registers, drawing, loads and stores -/

theorem witness_flagged : (14 : Reg) ≠ vf ∧ (0 : Reg) ≠ vf := by decide
theorem witness_RandomByteIsMasked : (0x0F : Byte).getLsbD 7 = false := by decide
theorem witness_DrawTurnsOverTheSpritePixels : InRange (State.reset.withI 0x0FF1) (15 : Nibble).toNat := by unfold InRange; decide
theorem witness_DrawTurnsOverTheSpritePixels_empty : InRange (State.reset.withI 0x1000) (0 : Nibble).toNat := by
  unfold InRange; decide
theorem witness_DrawingTwiceRestoresTheScreen : (14 : Reg) ≠ vf ∧ InRange (State.reset.withI 0x0FF1) (15 : Nibble).toNat ∧
    ∀ a b, (State.reset.withI 0x0FF1).fb.pixel a b = false :=
  ⟨by decide, witness_DrawTurnsOverTheSpritePixels, Grid.pixel_blank⟩
theorem witness_DrawOutsideMemoryHaltsAfterItsRows : 1 < (2 : Nibble).toNat ∧ FirstOutside (State.reset.withI 0x0FFF) 1 := by
  unfold FirstOutside InRange; decide
theorem witness_RowDrawIsOneExclusiveOr : 33 % 32 = 1 % 32 ∧ 2 % 32 ≠ 1 % 32 := by decide
theorem witness_BcdStoresThreeDigits : InRange (State.reset.withI 0x0FFD) 3 ∧ (State.reset.withI 0x0FFD).mem.wf :=
  ⟨by unfold InRange; decide, Memory.wf_nil⟩
theorem witness_DumpStoresTheRegisters : InRange (State.reset.withI 0x0FF0) ((15 : Reg).toNat + 1) ∧
    (State.reset.withI 0x0FF0).mem.wf := ⟨by unfold InRange; decide, Memory.wf_nil⟩
theorem witness_LoadFillsTheRegisters : InRange (State.reset.withI 0x0FF1) ((14 : Reg).toNat + 1) ∧ (14 : Reg) < 15 :=
  ⟨by unfold InRange; decide, by decide⟩
theorem witness_BlockAccessOutsideMemoryHaltsPartWay_bcd : FirstOutside (State.reset.withI 0x0FFE) 2 ∧ 2 < 3 := by
  unfold FirstOutside InRange; decide
theorem witness_BlockAccessOutsideMemoryHaltsPartWay_regs : FirstOutside (State.reset.withI 0x0FF1) 15 ∧ 15 ≤ (15 : Reg).toNat := by
  unfold FirstOutside InRange; decide
theorem witness_BlockAccessOutsideMemoryHaltsPartWay_first : FirstOutside (State.reset.withI 0x1000) 0 ∧ 0 ≤ (0 : Reg).toNat := by
  unfold FirstOutside InRange; decide

/-! ### All instructions -/

theorem witness_EveryInstructionKeepsItsFrame : State.reset.mem.wf ∧ exec .cls State.reset = .next (fbClear State.reset) :=
  ⟨Memory.wf_nil, rfl⟩
theorem witness_InstructionsHaltOnlyAsListed : (State.reset.withSp 16).sp ≤ 16 ∧ 16 < (State.reset.withSp 17).sp := by decide
theorem witness_InstructionsHaltOnlyAsListed_halts : State.reset.run ≠ .halted ∧
    gives (exec .ret State.reset) (fun t => t.run == .halted) = true := by decide
theorem witness_SoundTimerAndCycleCountAreNeverRead : exec .cls State.reset = .next (fbClear State.reset) := rfl

end Sys2Proof.Tests
end

/-! SUPPORT. Proofs for the family 10_state: the invariants every step keeps, the timers and the packed grid, the stack, the new
machine, and that no instruction reads ST or CYC. -/

namespace Sys2Proof.Machine

/-! ## The two cases of a push -/

/-- A push below the capacity. -/
theorem push_of_lt {s : State} (h : s.sp < 16) (a : Word) :
    push a s = some ((s.withStack (s.stack.set s.sp a h)).withSp (s.sp + 1)) := by rw [push_eq, dif_pos h]

/-- A push at the capacity (10 R33). -/
theorem push_of_ge {s : State} (h : 16 ≤ s.sp) (a : Word) : push a s = none := by rw [push_eq, dif_neg (by omega)]

/-! ## What every step can do to the fields the invariants speak of -/

/-- The fields the two invariants speak of are the same in `t` as in `s`, memory apart, which stays canonical. -/
structure SameControl (s t : State) : Prop where
  pc : t.pc = s.pc
  stack : t.stack = s.stack
  sp : t.sp = s.sp
  run : t.run = s.run
  err : t.err = s.err
  errWord : t.errWord = s.errWord
  rate : t.rate = s.rate
  refresh : t.refresh = s.refresh
  memWf : s.mem.wf → t.mem.wf

theorem SameControl.refl (s : State) : SameControl s s := ⟨rfl, rfl, rfl, rfl, rfl, rfl, rfl, rfl, id⟩

theorem SameControl.inv {s t : State} (h : SameControl s t) (hs : s.Inv) : t.Inv where
  memWf := h.memWf hs.memWf
  spLe := h.sp ▸ hs.spLe
  rateGe := h.rate ▸ hs.rateGe
  refreshEq := h.rate ▸ h.refresh ▸ hs.refreshEq
  activeNoErr := h.run ▸ h.err ▸ hs.activeNoErr
  haltedErr := h.run ▸ h.err ▸ hs.haltedErr
  noDetail := h.err ▸ h.errWord ▸ hs.noDetail

theorem SameControl.pcBound {s t : State} (h : SameControl s t) (hs : s.PcBound) : t.PcBound where
  pcLe := h.pc ▸ hs.pcLe
  slotsLe := h.stack ▸ hs.slotsLe

theorem takeTurn_sameControl (s : State) : SameControl s (takeTurn s) := { SameControl.refl s with }

theorem emit_sameControl (o : Output) (s : State) : SameControl s (emit o s) := { SameControl.refl s with }

theorem serveSave_sameControl (s : State) : SameControl s (serveSave s) := by constructor <;> simp

theorem endOfCycle_sameControl (s : State) : SameControl s (endOfCycle s) := by constructor <;> simp

theorem afterExecute_sameControl (s : State) : SameControl s (afterExecute s) := by
  unfold afterExecute
  split
  · exact endOfCycle_sameControl s
  · exact .refl s

/-- A store loop changes memory alone and keeps its canonical form, so it keeps the control fields. -/
theorem storeBytes_sameControl (k : Nat) (bs : List Byte) (s : State) : SameControl s (storeBytes k bs s).after := by
  induction bs generalizing k s with
  | nil => exact .refl s
  | cons b bs ih =>
    simp only [storeBytes, memWrite_eq]
    by_cases h : (effAddr s k).toNat < Config.memSize
    · rw [if_pos h]
      exact { ih (k + 1) (s.withMem (s.mem.write (effAddr s k).toNat b)) with
        memWf := fun hs => (ih _ _).memWf (Memory.wf_write h hs) }
    · rw [if_neg h]
      exact .refl s

theorem loadRegs_sameControl (ks : List Nat) (s : State) : SameControl s (loadRegs ks s).after := by
  obtain ⟨v, h⟩ := loadRegs_v ks s
  exact h ▸ { SameControl.refl s with }

theorem drawRows_sameControl (vx vy : Nat) (rs : List Nat) (s : State) : SameControl s (drawRows vx vy rs s).after := by
  obtain ⟨g, c, r, h⟩ := drawRows_eq vx vy rs s
  exact h ▸ { SameControl.refl s with }

/-! ## What an instruction can do to them -/

/-- The ways an instruction can change the control fields. -/
inductive ExecEffect (s : State) : State → Prop where
  /-- It leaves them. -/
  | data {t : State} (h : SameControl s t) : ExecEffect s t
  /-- A skip (41 R159). -/
  | skip : ExecEffect s (s.withPc (s.pc + 2))
  /-- A jump: the target is at most 0x0FFF + 0xFF (41 R158). -/
  | jump {a : Word} (ha : a.toNat ≤ 0x10FE) : ExecEffect s (s.withPc a)
  /-- A call below the capacity (41 R153). -/
  | call (h : s.sp < 16) {a : Word} (ha : a.toNat ≤ 0x10FE) :
      ExecEffect s (((s.withStack (s.stack.set s.sp s.pc h)).withSp (s.sp + 1)).withPc a)
  /-- A return from a stack with 1 to 16 entries (41 R151). -/
  | ret (h : s.sp - 1 < 16) : ExecEffect s ((s.withSp (s.sp - 1)).withPc (s.stack[s.sp - 1]'h))
  /-- The begin of a key wait (45 R242). -/
  | wait (x : Reg) : ExecEffect s ((s.withKeyWake false).withRun (.waitKey x))
  /-- A fatal error (60 R266). -/
  | halt {u : State} (h : SameControl s u) {e : Err} (he : e ≠ .none ∧ e ≠ .stop) (w : Word) :
      ExecEffect s (raise e w u)

/-- The end of an instruction's accesses: a data change, or AddressOutOfRange after the accesses that precede it. -/
theorem finish_effect {s t : State} {r : Access} (hr : SameControl s r.after) (h : finish r = .next t) :
    ExecEffect s t := by
  rcases r with ⟨a, u⟩ | u <;> cases h
  · exact .halt hr (by decide) a
  · exact .data hr

theorem skipIf_effect (c : Bool) (s : State) : ExecEffect s (skipIf c s) := by
  cases c
  · exact .data (.refl s)
  · exact .skip

theorem execRet_effect {s t : State} (h : execRet s = .next t) : ExecEffect s t := by
  unfold execRet at h
  rcases pop_cases s with ⟨_, hp⟩ | ⟨_, hlt, hp⟩ | ⟨_, hp⟩ <;> rw [hp] at h <;> cases h
  · exact .halt (.refl s) (by decide) _
  · exact .ret hlt

theorem execCallAddr_effect {nnn : Addr12} {s t : State} (h : execCallAddr nnn s = .next t) : ExecEffect s t := by
  unfold execCallAddr at h
  by_cases hs : s.sp < 16
  · rw [push_of_lt hs] at h
    cases h
    exact .call hs (by rw [zextAddr_toNat]; omega)
  · rw [push_of_ge (by omega)] at h
    cases h
    exact .halt (.refl s) (by decide) _

theorem execDrwVxVyN_effect {x y : Reg} {n : Nibble} {s t : State} (h : execDrwVxVyN x y n s = .next t) :
    ExecEffect s t := by
  have hrows := drawRows_sameControl (s.reg x).toNat (s.reg y).toNat (List.range n.toNat) (s.withColl false)
  unfold execDrwVxVyN at h
  split at h
  next u hu =>
    cases h
    rw [hu] at hrows
    exact .data { hrows with }
  next e he =>
    rw [he] at hrows
    exact finish_effect { hrows with } h

theorem exec_effect {i : Instr} {s t : State} (h : exec i s = .next t) : ExecEffect s t := by
  cases i with
  | ret => exact execRet_effect h
  | callAddr nnn => exact execCallAddr_effect h
  | jpAddr nnn => cases h; exact .jump (by rw [zextAddr_toNat]; omega)
  | jpV0Addr nnn =>
    cases h
    refine .jump ?_
    rw [BitVec.toNat_add, zextAddr_toNat, zextByte_toNat]
    omega
  | seVxByte | sneVxByte | seVxVy | sneVxVy | skpVx | sknpVx => cases h; exact skipIf_effect _ s
  | ldVxK x => cases h; exact .wait x
  | drwVxVyN x y n => exact execDrwVxVyN_effect h
  | ldBVx | ldIVx => exact finish_effect (storeBytes_sameControl _ _ s) h
  | ldVxI x => exact finish_effect (loadRegs_sameControl _ s) h
  | _ => cases h; exact .data { SameControl.refl s with }

/-! ## What a cycle, a wait and a host event can do to them -/

/-- The ways a cycle of the core can change the control fields. -/
inductive CycleEffect (s : State) : State → Prop where
  /-- It ends before the fetch is done: a stop, or an address out of range (40 R124, R130). -/
  | halt {u : State} (h : SameControl s u) {e : Err} (he : e ≠ .none) {w : Word} (hw : e = .stop → w = 0) :
      CycleEffect s (raise e w u)
  /-- The fetched word has no row in the table (60 R262). -/
  | unknown {u : State} (h : SameControl s u) (hpc : s.pc.toNat < 0x0FFF) (w : Word) :
      CycleEffect s (raise .unknownInstruction w (u.withPc (s.pc + 2)))
  /-- The fetched instruction is executed and its cycle ended. -/
  | executed {u v t : State} (h : SameControl s u) (hpc : s.pc.toNat < 0x0FFF)
      (hx : ExecEffect (u.withPc (s.pc + 2)) v) (ht : SameControl v t) : CycleEffect s t

/-- A fetch that gives a word was at an address below 0x0FFF. -/
theorem pc_lt_of_fetch_ok {s t : State} {w : Word} (h : fetch s = .ok (w, t)) : s.pc.toNat < 0x0FFF := by
  by_contra hp
  rw [fetch_error (by omega)] at h
  cases h

theorem executeCycle_next {i : Instr} {s t : State} (h : executeCycle i s = .next t) :
    ∃ u, exec i s = .next u ∧ t = afterExecute u := by
  unfold executeCycle at h
  split at h <;> cases h
  exact ⟨_, by assumption, rfl⟩

theorem cycle_effect {s t : State} (h : cycle s = .next t) : CycleEffect s t := by
  have hs := serveSave_sameControl s
  unfold cycle at h
  split at h
  · cases h
    exact .halt (.refl s) (by decide) (fun _ => rfl)
  · rcases fetchExecute_cases (serveSave s) with ⟨a, _, hr⟩ | ⟨w, e, hf, _, hr⟩ | ⟨w, i, hf, _, hr⟩ <;> rw [hr] at h
    · cases h
      exact .halt hs (by decide) nofun
    · cases h
      have hpc := pc_lt_of_fetch_ok hf
      rw [hs.pc] at hpc ⊢
      exact .unknown hs hpc w
    · obtain ⟨u, hx, rfl⟩ := executeCycle_next h
      have hpc := pc_lt_of_fetch_ok hf
      rw [hs.pc] at hpc hx
      exact .executed hs hpc (exec_effect hx) (afterExecute_sameControl u)

/-- Taking the key resumes the run and changes no other control field (45 R243). -/
theorem takeKey_sameControl (x : Reg) (s : State) : SameControl (s.withRun .running) (takeKey x s) :=
  { endOfCycle_sameControl ((s.setReg x (s.lastKey.setWidth 8)).withRun .running) with }

theorem loadRom_sameControl (bytes : List Byte) (s : State) : SameControl s (loadRom bytes s) := by
  unfold loadRom
  split
  next h =>
    refine { SameControl.refl s with memWf := Memory.wf_writeAll ?_ }
    simp only [Config.romMax, Config.loadBase, Config.memSize] at h ⊢
    omega
  next => exact emit_sameControl _ s

/-- The ways a host event can change the control fields. -/
inductive HostEffect (s : State) : HostEvent → State → Prop where
  /-- It leaves them: `LoadRom`, the keys and the two latches. -/
  | data {e : HostEvent} {t : State} (h : SameControl s t) : HostEffect s e t
  | reset (hr : s.run = .idle) : HostEffect s .reset (resetMachine s)
  | restore (b : Option Blob) : HostEffect s (.restore b) (restore b s)
  | start : HostEffect s .start (start s)
  | setRate {r : Nat} (hr : Config.tickHz ≤ r) : HostEffect s (.setRate r) (setRate r s)

/-- An event that is allowed under a condition and refused otherwise. -/
theorem next_of_allowed {p : Prop} [Decidable p] {u t : State} {r : Refusal}
    (h : (if p then .next u else .refused r : Host.Outcome State Fault Refusal) = .next t) : p ∧ u = t := by
  split at h <;> cases h
  exact ⟨by assumption, rfl⟩

theorem hostStep_effect {e : HostEvent} {s t : State} (h : hostStep e s = .next t) : HostEffect s e t := by
  cases e with
  | reset => obtain ⟨hr, rfl⟩ := next_of_allowed h; exact .reset hr
  | loadRom bytes => obtain ⟨_, rfl⟩ := next_of_allowed h; exact .data (loadRom_sameControl bytes s)
  | restore b => obtain ⟨_, rfl⟩ := next_of_allowed h; exact .restore b
  | start => obtain ⟨_, rfl⟩ := next_of_allowed h; exact .start
  | setRate r => obtain ⟨hr, rfl⟩ := next_of_allowed h; exact .setRate hr
  | keyDown k | keyUp k => obtain ⟨_, rfl⟩ := next_of_allowed h; exact .data { SameControl.refl s with }
  | stop | requestSave => cases h; exact .data { SameControl.refl s with }

/-! ## The invariant of the machine -/

theorem State.Inv.raise {s : State} (hs : s.Inv) {e : Err} {w : Word} (he : e ≠ .none) (hw : e = .stop → w = 0) :
    (raise e w s).Inv :=
  { hs with
    activeNoErr := by simp [Run.isWait]
    haltedErr := fun _ => he
    noDetail := by simpa [he] using hw }

theorem State.Inv.withPc {s : State} (hs : s.Inv) (a : Word) : (s.withPc a).Inv := { hs with }

/-- A running core has no cause recorded, so it may begin a wait, and a wait may end. -/
theorem State.Inv.withRun {s : State} (hs : s.Inv) (he : s.err = .none) {r : Run} (hr : r ≠ .halted) :
    (s.withRun r).Inv :=
  { hs with activeNoErr := fun _ => he, haltedErr := fun h => absurd h hr }

theorem ExecEffect.inv {s t : State} (h : ExecEffect s t) (hs : s.Inv) (hr : s.run = .running) : t.Inv := by
  cases h with
  | data h => exact h.inv hs
  | skip | jump => exact { hs with }
  | call h => exact { hs with spLe := h }
  | ret => exact { hs with spLe := (Nat.sub_le _ _).trans hs.spLe }
  | wait x => exact { hs.withRun (hs.activeNoErr (.inl hr)) (r := .waitKey x) (by simp) with }
  | halt h he w => exact (h.inv hs).raise he.1 fun hstop => absurd hstop he.2

theorem CycleEffect.inv {s t : State} (h : CycleEffect s t) (hs : s.Inv) (hr : s.run = .running) : t.Inv := by
  cases h with
  | halt h he hw => exact (h.inv hs).raise he hw
  | unknown h w => exact ((h.inv hs).withPc _).raise (by decide) nofun
  | executed h _ hx ht => exact ht.inv (hx.inv { h.inv hs with } (h.run.trans hr))

theorem resume_inv {x : Reg} {s : State} (hs : s.Inv) (hr : s.run = .waitKey x) : (resume x s).Inv := by
  rcases resume_cases x s with ⟨_, _, h⟩ | ⟨_, c, h⟩ | ⟨_, c, h⟩ <;> rw [h]
  · exact hs
  · exact State.Inv.raise (s := s.withChoices c) { hs with } (by decide) (fun _ => rfl)
  · have he : s.err = .none := hs.activeNoErr (.inr (by rw [hr]; rfl))
    exact (takeKey_sameControl x _).inv { hs.withRun he (r := .running) (by decide) with }

/-- A reset machine has its cause and detail still, so the invariant holds of it (70 R301). -/
theorem resetMachine_inv {s : State} (hs : s.Inv) : (resetMachine s).Inv :=
  { hs with
    memWf := Memory.wf_nil
    spLe := Nat.zero_le _
    activeNoErr := fun h => by simp [State.reset, Run.isWait] at h
    haltedErr := fun h => by simp [State.reset] at h }

theorem coreStep_inv {s t : State} (hs : s.Inv) (h : coreStep s = .next t) : t.Inv := by
  cases hr : s.run with
  | idle => rw [coreStep_idle hr] at h; cases h; exact hs
  | running => rw [coreStep_running hr] at h; exact (cycle_effect h).inv hs hr
  | waitKey x => rw [coreStep_waitKey hr] at h; cases h; exact resume_inv hs hr
  | halted => rw [coreStep_halted hr] at h; cases h; exact (emit_sameControl _ _).inv (resetMachine_inv hs)

/-- A well-formed blob has its 4096 bytes and an SP of at most 16 (60 R289). -/
theorem Blob.wf_bounds {b : Blob} (h : b.wf = true) : b.sp ≤ 16 ∧ b.mem.length = Config.memSize := by
  simp only [Blob.wf, Bool.and_eq_true, beq_iff_eq, decide_eq_true_eq] at h
  obtain ⟨⟨⟨_, hsp⟩, hmem⟩, _⟩ := h
  exact ⟨hsp, hmem⟩

theorem restore_inv (b : Option Blob) {s : State} (hs : s.Inv) : (restore b s).Inv := by
  unfold restore
  split
  next blob =>
    split
    next hb =>
      obtain ⟨hsp, hmem⟩ := Blob.wf_bounds hb
      unfold applyBlob
      exact { hs with memWf := Memory.wf_writeAll (by omega) Memory.wf_nil, spLe := hsp }
    next => exact (emit_sameControl _ s).inv hs
  next => exact (emit_sameControl _ s).inv hs

/-- A run starts with no cause and no detail recorded (60 R281). -/
theorem start_inv {s : State} (hs : s.Inv) : (start s).Inv where
  memWf := by simpa [start] using hs.memWf
  spLe := by simpa [start] using hs.spLe
  rateGe := by simpa [start] using hs.rateGe
  refreshEq := by simpa [start] using hs.refreshEq
  activeNoErr := by simp [start]
  haltedErr := by simp [start]
  noDetail := by simp [start]

theorem HostEffect.inv {e : HostEvent} {s t : State} (h : HostEffect s e t) (hs : s.Inv) : t.Inv := by
  cases h with
  | data h => exact h.inv hs
  | reset => exact resetMachine_inv hs
  | restore b => exact restore_inv b hs
  | start => exact start_inv hs
  | setRate hr => exact { hs with rateGe := hr, refreshEq := rfl }

/-- Settles O19: a turn keeps the control fields, and each effect of the core and of the host keeps the invariant. -/
theorem everyStepKeepsTheInvariant : Obligations.EveryStepKeepsTheInvariant := by
  intro s t hs h
  have hs := (takeTurn_sameControl s).inv hs
  cases hturn : s.turn with
  | core => exact coreStep_inv hs (step_core hturn ▸ h)
  | host e => exact (hostStep_effect (step_host hturn ▸ h)).inv hs

/-! ## The bound on PC -/

theorem State.PcBound.withPc {s : State} (hs : s.PcBound) {a : Word} (ha : a.toNat ≤ 0x10FE) : (s.withPc a).PcBound :=
  { hs with pcLe := ha }

theorem State.PcBound.raise {s : State} (hs : s.PcBound) (e : Err) (w : Word) : (raise e w s).PcBound := { hs with }

/-- After a fetch PC is at most 0x1000, and an instruction moves it to 0x10FE at most; it pushes no other address than PC. -/
theorem ExecEffect.pcBound {s t : State} (h : ExecEffect s t) (hs : s.PcBound) (hpc : s.pc.toNat ≤ 0x1000) :
    t.PcBound := by
  cases h with
  | data h => exact h.pcBound hs
  | skip => exact hs.withPc (by simp [BitVec.toNat_add]; omega)
  | jump ha => exact hs.withPc ha
  | call h ha =>
    refine ⟨ha, fun k hk => ?_⟩
    simp only [State.withPc_stack, State.withSp_stack, State.withStack_stack, Vector.getElem_set]
    split
    · exact hpc
    · exact hs.slotsLe k hk
  | ret h => exact { hs with pcLe := (hs.slotsLe _ h).trans (by decide) }
  | wait => exact { hs with }
  | halt h => exact (h.pcBound hs).raise _ _

theorem CycleEffect.pcBound {s t : State} (h : CycleEffect s t) (hs : s.PcBound) : t.PcBound := by
  have hnext (hpc : s.pc.toNat < 0x0FFF) : (s.pc + 2).toNat ≤ 0x1000 := by simp [BitVec.toNat_add]; omega
  cases h with
  | halt h => exact (h.pcBound hs).raise _ _
  | unknown h hpc => exact ((h.pcBound hs).withPc ((hnext hpc).trans (by decide))).raise _ _
  | executed h hpc hx ht =>
    exact ht.pcBound (hx.pcBound ((h.pcBound hs).withPc ((hnext hpc).trans (by decide))) (hnext hpc))

theorem resume_pcBound (x : Reg) {s : State} (hs : s.PcBound) : (resume x s).PcBound := by
  rcases resume_cases x s with ⟨_, _, h⟩ | ⟨_, c, h⟩ | ⟨_, c, h⟩ <;> rw [h]
  · exact hs
  · exact State.PcBound.raise (s := s.withChoices c) { hs with } _ _
  · exact (takeKey_sameControl x _).pcBound { hs with }

theorem resetMachine_pcBound (s : State) : (resetMachine s).PcBound where
  pcLe := by rw [resetMachine_pc]; decide
  slotsLe k h := by simp [State.reset, Params.resetSlot]

theorem start_pcBound {s : State} (hs : s.PcBound) : (start s).PcBound where
  pcLe := by simpa [start] using hs.pcLe
  slotsLe := by simpa [start] using hs.slotsLe

theorem coreStep_pcBound {s t : State} (hs : s.PcBound) (h : coreStep s = .next t) : t.PcBound := by
  cases hr : s.run with
  | idle => rw [coreStep_idle hr] at h; cases h; exact hs
  | running => rw [coreStep_running hr] at h; exact (cycle_effect h).pcBound hs
  | waitKey x => rw [coreStep_waitKey hr] at h; cases h; exact resume_pcBound x hs
  | halted => rw [coreStep_halted hr] at h; cases h; exact (emit_sameControl _ _).pcBound (resetMachine_pcBound s)

theorem HostEffect.pcBound {e : HostEvent} {s t : State} (h : HostEffect s e t) (he : ∀ b, e ≠ .restore b)
    (hs : s.PcBound) : t.PcBound := by
  cases h with
  | data h => exact h.pcBound hs
  | reset => exact resetMachine_pcBound s
  | restore b => exact absurd rfl (he b)
  | start => exact start_pcBound hs
  | setRate => exact { hs with }

/-- Settles O20: the fetch stops at 0x0FFF, so PC is at most 0x1000 after it, and no instruction takes it past 0x10FE. -/
theorem everyStepKeepsThePcBound : Obligations.EveryStepKeepsThePcBound := by
  intro s t hs hrestore h
  have hs := (takeTurn_sameControl s).pcBound hs
  cases hturn : s.turn with
  | core => exact coreStep_pcBound hs (step_core hturn ▸ h)
  | host e => exact (hostStep_effect (step_host hturn ▸ h)).pcBound (fun b he => hrestore b (he ▸ hturn)) hs

/-! ## The timers and the packed grid -/

/-- Settles O14: both timers are counted down, and `countDown` subtracts in the naturals. -/
theorem tickCountsDownToZeroAndStays : Obligations.TickCountsDownToZeroAndStays := by
  intro s
  have hpos (t : Byte) (h : 0 < t.toNat) : (countDown t).toNat + 1 = t.toNat := by rw [countDown_toNat]; omega
  have hzero (t : Byte) (h : t = 0) : countDown t = 0 := if_pos h
  rw [timerTick_dt, timerTick_st]
  exact ⟨hpos s.dt, hzero s.dt, hpos s.st, hzero s.st⟩

/-- Settles O30: bit 7 − (x mod 8) of the byte is bit 63 − x of the row, which is the pixel. -/
theorem packedBitIsThePixel : Obligations.PackedBitIsThePixel := by
  intro g
  refine ⟨by simp [Grid.packed], fun x y hx hy => ?_⟩
  have hbyte : g.packed.getD (y * 8 + x / 8) 0 = g.packedByte (y * 8 + x / 8) := by
    have hk : y * 8 + x / 8 < 256 := by omega
    simp [Grid.packed, hk]
  have hrow : (y * 8 + x / 8) / 8 = y := by omega
  have hcol : 56 - 8 * ((y * 8 + x / 8) % 8) + (7 - x % 8) = 63 - x := by omega
  rw [hbyte, Grid.packedByte, hrow, BitVec.getLsbD_extractLsb', hcol, Grid.pixel, BitVec.getMsbD_eq_getLsbD,
    Nat.mod_eq_of_lt hx]
  have hbit : 7 - x % 8 < 8 := by omega
  simp [hbit, hx]

/-! ## The stack -/

theorem Frame.refl (c : Touch) (s : State) : Frame c s s := by constructor <;> simp

/-- Settles O32: by the two cases of a push. -/
theorem pushStoresTheAddressOrOverflows : Obligations.PushStoresTheAddressOrOverflows := by
  refine fun s a => ⟨fun h => ⟨_, push_of_lt h a, ?_, rfl, ?_⟩, fun h => push_of_ge (by omega) a⟩
  · simp
  · refine { Frame.refl _ s with slots := fun k hk => ?_, sp := fun hc => by cases hc }
    have hne : s.sp ≠ k := fun e => hk (by simp [e])
    simp [hne]

/-- Pushing leaves the entries below where it began. -/
theorem pushAll_keeps_lower {as : List Word} {s t : State} (h : pushAll as s = some t) {k : Nat} (hk : k < s.sp) :
    t.stack[k]? = s.stack[k]? := by
  induction as generalizing s with
  | nil => cases h; rfl
  | cons a as ih =>
    rw [pushAll] at h
    by_cases hs : s.sp < 16
    · rw [push_of_lt hs] at h
      have hne : s.sp ≠ k := by omega
      rw [ih h (by simp; omega)]
      simp [hne]
    · rw [push_of_ge (by omega)] at h
      cases h

/-- A pop after n pops is the last of n + 1 pops. -/
theorem popAll_succ {n : Nat} {s t u : State} {as : List Word} {a : Word} (h : popAll n s = .ok (as, t))
    (ha : pop t = .ok (a, u)) : popAll (n + 1) s = .ok (as ++ [a], u) := by
  induction n generalizing s as with
  | zero => cases h; simp [popAll, ha]
  | succ n ih =>
    rw [popAll] at h ⊢
    cases hp : pop s with
    | error e => rw [hp] at h; cases h
    | ok p =>
      obtain ⟨b, s'⟩ := p
      rw [hp] at h
      cases hq : popAll n s' with
      | error e => simp only [hq] at h; cases h
      | ok q =>
        obtain ⟨bs, t'⟩ := q
        simp only [hq] at h
        cases h
        simp only [ih hq, List.cons_append]

/-- Addresses that fit are pushed, and come back in reverse: the first is the last to be popped. -/
theorem pushAll_popAll {as : List Word} {s : State} (h : s.sp + as.length ≤ 16) :
    ∃ t, pushAll as s = some t ∧ t.sp = s.sp + as.length ∧ popAll as.length t = .ok (as.reverse, t.withSp s.sp) := by
  induction as generalizing s with
  | nil => exact ⟨s, rfl, rfl, rfl⟩
  | cons a as ih =>
    rw [List.length_cons] at h
    have hs : s.sp < 16 := by omega
    obtain ⟨t, hpush, hsp, hpop⟩ := ih (s := (s.withStack (s.stack.set s.sp a hs)).withSp (s.sp + 1)) (by simp; omega)
    have hslot : t.stack[s.sp] = a := by
      have hlow := pushAll_keeps_lower hpush (k := s.sp) (by simp)
      simpa [hs] using hlow
    have hlast : pop (t.withSp (s.sp + 1)) = .ok (a, t.withSp s.sp) := by
      have hsp : (t.withSp (s.sp + 1)).withSp s.sp = t.withSp s.sp := rfl
      rw [pop_of_lt (by simp) (by simpa using hs)]
      simp [hslot, hsp]
    refine ⟨t, by rw [pushAll, push_of_lt hs]; exact hpush, by rw [hsp]; simp; omega, ?_⟩
    rw [List.reverse_cons]
    exact popAll_succ hpop hlast

/-- Addresses that do not fit cannot be pushed: the push that meets the capacity fails. -/
theorem pushAll_overflow {as : List Word} {s : State} (hs : s.sp ≤ 16) (h : 16 < s.sp + as.length) :
    pushAll as s = none := by
  induction as generalizing s with
  | nil => simp at h; omega
  | cons a as ih =>
    rw [List.length_cons] at h
    rw [pushAll]
    by_cases hlt : s.sp < 16
    · rw [push_of_lt hlt]
      exact ih (by simp; omega) (by simp; omega)
    · rw [push_of_ge (by omega)]

/-- Settles O33: by induction on the list pushed. -/
theorem pushedAddressesPopInReverse : Obligations.PushedAddressesPopInReverse :=
  ⟨fun _ _ => pushAll_popAll, fun _ _ => pushAll_overflow, fun _ => pop_empty⟩

/-! ## The new machine -/

theorem reset_atReset : State.reset.AtReset where
  regs r := by simp [State.reg, State.reset, Params.resetByte]
  i := rfl
  timers := ⟨rfl, rfl⟩
  pc := rfl
  sp := rfl
  slots k h := by simp [State.reset, Params.resetSlot]
  glyphs a _ := rfl
  rest a h := resetMemByte_of_ge h
  dark := Grid.pixel_blank
  flags := ⟨rfl, rfl⟩
  input := ⟨rfl, rfl, rfl⟩
  run := rfl
  cyc := rfl
  latches := ⟨rfl, rfl⟩

/-- Settles O17: the reset table element by element, and the four registers `Reset` keeps. -/
theorem creationStateIsTheResetTable : Obligations.CreationStateIsTheResetTable :=
  ⟨reset_atReset, rfl, rfl, rfl, rfl⟩

/-- Settles O18: no cell is listed and no cause is recorded. -/
theorem creationStateMeetsTheInvariant : Obligations.CreationStateMeetsTheInvariant where
  memWf := Memory.wf_nil
  spLe := by decide
  rateGe := by decide
  refreshEq := rfl
  activeNoErr _ := rfl
  haltedErr h := Run.noConfusion h
  noDetail _ := rfl

/-! ## ST and CYC are not read -/

/-- The state with other values of ST and CYC. -/
def State.withUnread (s : State) (b : Byte) (c : Nat) : State := (s.withSt b).withCyc c

/-- The state an outcome gives with other values of ST and CYC. -/
def outcomeWithUnread (b : Byte) (c : Nat) : Host.Outcome State Fault Refusal → Host.Outcome State Fault Refusal
  | .next s => .next (s.withUnread b c)
  | .fault r => .fault r
  | .refused r => .refused r

/-- The state after a sequence of accesses with other values of ST and CYC. -/
def Access.withUnread (b : Byte) (c : Nat) : Access → Access
  | .ok s => .ok (s.withUnread b c)
  | .error (a, s) => .error (a, s.withUnread b c)

section
variable (b : Byte) (c : Nat)

@[simp] theorem withUnread_mem (s : State) : (s.withUnread b c).mem = s.mem := rfl
@[simp] theorem withUnread_pc (s : State) : (s.withUnread b c).pc = s.pc := rfl
@[simp] theorem withUnread_reg (s : State) (x : Reg) : (s.withUnread b c).reg x = s.reg x := rfl
@[simp] theorem withUnread_withColl (s : State) (f : Bool) :
    (s.withUnread b c).withColl f = (s.withColl f).withUnread b c := rfl
@[simp] theorem withUnread_effAddr (s : State) (k : Nat) : effAddr (s.withUnread b c) k = effAddr s k := rfl

theorem storeBytes_withUnread (k : Nat) (bs : List Byte) (s : State) :
    storeBytes k bs (s.withUnread b c) = (storeBytes k bs s).withUnread b c := by
  induction bs generalizing k s with
  | nil => rfl
  | cons v bs ih =>
    simp only [storeBytes, memWrite_eq, withUnread_effAddr]
    by_cases h : (effAddr s k).toNat < Config.memSize
    · simp only [if_pos h]
      exact ih (k + 1) (s.withMem (s.mem.write (effAddr s k).toNat v))
    · simp only [if_neg h]
      rfl

theorem loadRegs_withUnread (ks : List Nat) (s : State) :
    loadRegs ks (s.withUnread b c) = (loadRegs ks s).withUnread b c := by
  induction ks generalizing s with
  | nil => rfl
  | cons k ks ih =>
    simp only [loadRegs, memRead_eq, withUnread_effAddr]
    by_cases h : (effAddr s k).toNat < Config.memSize
    · simp only [if_pos h]
      exact ih (s.setReg (regOf k) (s.mem.read (effAddr s k).toNat))
    · simp only [if_neg h]
      rfl

theorem drawBits_withUnread (x y : Nat) (v : Byte) (js : List Nat) (s : State) :
    drawBits x y v js (s.withUnread b c) = (drawBits x y v js s).withUnread b c := by
  induction js generalizing s with
  | nil => rfl
  | cons j js ih => exact ih (drawPixel (x + j) y (v.getMsbD j) s)

theorem drawByte_withUnread (x y : Nat) (v : Byte) (s : State) :
    drawByte x y v (s.withUnread b c) = (drawByte x y v s).withUnread b c :=
  congrArg (State.withRepaint · true) (drawBits_withUnread b c x y v _ s)

theorem drawRows_withUnread (vx vy : Nat) (rs : List Nat) (s : State) :
    drawRows vx vy rs (s.withUnread b c) = (drawRows vx vy rs s).withUnread b c := by
  induction rs generalizing s with
  | nil => rfl
  | cons r rs ih =>
    simp only [drawRows, memRead_eq, withUnread_effAddr, withUnread_mem]
    by_cases h : (effAddr s r).toNat < Config.memSize
    · simp only [if_pos h, drawByte_withUnread]
      exact ih _
    · simp only [if_neg h]
      rfl

theorem finish_withUnread (r : Access) : finish (r.withUnread b c) = outcomeWithUnread b c (finish r) := by
  rcases r with ⟨a, s⟩ | s <;> rfl

theorem skipIf_withUnread (p : Bool) (s : State) : skipIf p (s.withUnread b c) = (skipIf p s).withUnread b c := by
  cases p <;> rfl

theorem push_withUnread (a : Word) (s : State) : push a (s.withUnread b c) = (push a s).map (·.withUnread b c) := by
  by_cases h : s.sp < 16
  · rw [push_of_lt h, push_of_lt (s := s.withUnread b c) h]
    rfl
  · rw [push_of_ge (s := s) (by omega), push_of_ge (s := s.withUnread b c) (Nat.le_of_not_lt h)]
    rfl

theorem pop_withUnread (s : State) : pop (s.withUnread b c) = (pop s).map fun p => (p.1, p.2.withUnread b c) := by
  have hpeek : peek (s.withUnread b c) = peek s := rfl
  unfold pop
  rw [hpeek]
  cases peek s <;> rfl

theorem execRet_withUnread (s : State) : execRet (s.withUnread b c) = outcomeWithUnread b c (execRet s) := by
  unfold execRet
  rw [pop_withUnread]
  rcases pop s with (_ | _) | ⟨a, t⟩ <;> rfl

theorem execCallAddr_withUnread (nnn : Addr12) (s : State) :
    execCallAddr nnn (s.withUnread b c) = outcomeWithUnread b c (execCallAddr nnn s) := by
  unfold execCallAddr
  rw [withUnread_pc, push_withUnread]
  cases push s.pc s <;> rfl

theorem execDrwVxVyN_withUnread (x y : Reg) (n : Nibble) (s : State) :
    execDrwVxVyN x y n (s.withUnread b c) = outcomeWithUnread b c (execDrwVxVyN x y n s) := by
  unfold execDrwVxVyN
  rw [withUnread_reg, withUnread_reg, withUnread_withColl, drawRows_withUnread]
  rcases drawRows _ _ _ _ with ⟨a, t⟩ | t <;> rfl

/-- Every instruction but LD ST does the same with other values of ST and CYC, and leaves them. -/
theorem exec_withUnread (i : Instr) (hi : ∀ x, i ≠ .ldStVx x) (s : State) :
    exec i (s.withUnread b c) = outcomeWithUnread b c (exec i s) := by
  cases i with
  | ret => exact execRet_withUnread b c s
  | callAddr nnn => exact execCallAddr_withUnread b c nnn s
  | seVxByte | sneVxByte | seVxVy | sneVxVy | skpVx | sknpVx =>
    exact congrArg Host.Outcome.next (skipIf_withUnread b c _ s)
  | drwVxVyN x y n => exact execDrwVxVyN_withUnread b c x y n s
  | ldBVx | ldIVx =>
    exact (congrArg finish (storeBytes_withUnread b c 0 _ s)).trans (finish_withUnread b c _)
  | ldVxI x => exact (congrArg finish (loadRegs_withUnread b c _ s)).trans (finish_withUnread b c _)
  | ldStVx x => exact absurd rfl (hi x)
  | _ => rfl

end

/-- Settles O59: LD ST overwrites ST with a register; every other instruction carries the other values through. -/
theorem soundTimerAndCycleCountAreNeverRead : Obligations.SoundTimerAndCycleCountAreNeverRead := by
  intro i s t b c h
  by_cases hi : ∃ x, i = .ldStVx x
  · obtain ⟨x, rfl⟩ := hi
    cases h
    exact ⟨_, rfl, rfl⟩
  · refine ⟨t.withUnread b c, ?_, rfl⟩
    exact (exec_withUnread b c i (fun x hx => hi ⟨x, hx⟩) s).trans (congrArg (outcomeWithUnread b c) h)

end Sys2Proof.Machine

/-! SUPPORT. Proofs for the family 20_memory: what each instruction leaves unchanged, a byte write, a fetch outside memory, and the
copy of a ROM image. -/

namespace Sys2Proof.Machine

/-! ## The frame of each operation -/

theorem Frame.trans {c : Touch} {s t u : State} (hst : Frame c s t) (htu : Frame c t u) : Frame c s u where
  regs r hr := (htu.regs r hr).trans (hst.regs r hr)
  cells a ha := (htu.cells a ha).trans (hst.cells a ha)
  slots k hk := (htu.slots k hk).trans (hst.slots k hk)
  i h := (htu.i h).trans (hst.i h)
  pc h := (htu.pc h).trans (hst.pc h)
  dt h := (htu.dt h).trans (hst.dt h)
  st h := (htu.st h).trans (hst.st h)
  sp h := (htu.sp h).trans (hst.sp h)
  screen h := by simp [htu.screen h, hst.screen h]
  keyWake h := (htu.keyWake h).trans (hst.keyWake h)
  run hw hh := (htu.run hw hh).trans (hst.run hw hh)
  err h := by simp [htu.err h, hst.err h]
  draws h := (htu.draws h).trans (hst.draws h)
  input := by simp [htu.input, hst.input]
  clock := by simp [htu.clock, hst.clock]
  latches := by simp [htu.latches, hst.latches]
  record := by simp [htu.record, hst.record]

section
variable {c : Touch} (s : State)

theorem setReg_frame {x : Reg} (hx : x ∈ c.regs) (b : Byte) : Frame c s (s.setReg x b) :=
  { Frame.refl c s with
    regs := fun r hr => by rw [State.reg_setReg, if_neg (ne_of_mem_of_not_mem hx hr).symm] }

theorem setFlagged_frame {x : Reg} (hx : x ∈ c.regs) (hf : vf ∈ c.regs) (b : Byte) (f : Bool) :
    Frame c s (setFlagged x b f s) := by
  rw [setFlagged_eq]
  exact (setReg_frame s hf _).trans (setReg_frame _ hx b)

theorem withI_frame (h : c.i = true) (a : Word) : Frame c s (s.withI a) :=
  { Frame.refl c s with i := by simp [h] }

theorem withPc_frame (h : c.pc = true) (a : Word) : Frame c s (s.withPc a) :=
  { Frame.refl c s with pc := by simp [h] }

theorem withDt_frame (h : c.dt = true) (a : Byte) : Frame c s (s.withDt a) :=
  { Frame.refl c s with dt := by simp [h] }

theorem withSt_frame (h : c.st = true) (a : Byte) : Frame c s (s.withSt a) :=
  { Frame.refl c s with st := by simp [h] }

theorem withDraws_frame (h : c.draws = true) (n : Nat) : Frame c s (s.withDraws n) :=
  { Frame.refl c s with draws := by simp [h] }

/-- KEYWAKE and RUN are one element of a frame. -/
theorem wait_frame (h : c.wait = true) (w : Bool) (r : Run) : Frame c s ((s.withKeyWake w).withRun r) :=
  { Frame.refl c s with keyWake := by simp [h], run := by simp [h] }

theorem withSp_frame (h : c.sp = true) (n : Nat) : Frame c s (s.withSp n) :=
  { Frame.refl c s with sp := by simp [h] }

theorem skipIf_frame (h : c.pc = true) (b : Bool) : Frame c s (skipIf b s) := by
  rw [skipIf_eq]
  exact withPc_frame s h _

theorem raise_frame (h : c.halt = true) (e : Err) (w : Word) : Frame c s (raise e w s) :=
  { Frame.refl c s with run := by simp [h], err := by simp [h] }

theorem writeMem_frame (hs : s.mem.wf) {a : Nat} (ha : a ∈ c.cells) (v : Byte) :
    Frame c s (s.withMem (s.mem.write a v)) :=
  { Frame.refl c s with
    cells := fun b hb => by rw [State.withMem_mem, Memory.read_write hs, if_neg (ne_of_mem_of_not_mem ha hb).symm] }

/-- A store loop changes the cells of its own addresses alone. -/
theorem storeBytes_frame {k : Nat} {bs : List Byte} (hs : s.mem.wf)
    (hc : ∀ j, k ≤ j → j < k + bs.length → (effAddr s j).toNat ∈ c.cells) : Frame c s (storeBytes k bs s).after := by
  induction bs generalizing k s with
  | nil => exact .refl c s
  | cons b bs ih =>
    rw [List.length_cons] at hc
    simp only [storeBytes, memWrite_eq]
    by_cases h : (effAddr s k).toNat < Config.memSize
    · rw [if_pos h]
      exact (writeMem_frame s hs (hc k (by omega) (by omega)) b).trans
        (ih _ (Memory.wf_write h hs) fun j hk hj => hc j (by omega) (by omega))
    · rw [if_neg h]
      exact .refl c s

/-- A load loop changes the registers it lists alone. -/
theorem loadRegs_frame {ks : List Nat} (hc : ∀ k ∈ ks, regOf k ∈ c.regs) : Frame c s (loadRegs ks s).after := by
  induction ks generalizing s with
  | nil => exact .refl c s
  | cons k ks ih =>
    obtain ⟨hk, hks⟩ := List.forall_mem_cons.1 hc
    simp only [loadRegs, memRead_eq]
    by_cases h : (effAddr s k).toNat < Config.memSize
    · rw [if_pos h]
      exact (setReg_frame s hk _).trans (ih _ hks)
    · rw [if_neg h]
      exact .refl c s

/-- FB, COLL and REPAINT are one element of a frame. -/
theorem screen_frame (h : c.screen = true) (g : Grid) (f r : Bool) :
    Frame c s (((s.withColl f).withFb g).withRepaint r) :=
  { Frame.refl c s with screen := by simp [h] }

theorem drawRows_frame (h : c.screen = true) (vx vy : Nat) (rs : List Nat) : Frame c s (drawRows vx vy rs s).after := by
  obtain ⟨g, f, r, hd⟩ := drawRows_eq vx vy rs s
  exact hd ▸ screen_frame s h g f r

theorem push_frame (hsp : c.sp = true) (hslot : s.sp ∈ c.slots) {a : Word} {t : State} (h : push a s = some t) :
    Frame c s t := by
  by_cases hs : s.sp < 16
  · rw [push_of_lt hs] at h
    cases h
    refine { Frame.refl c s with slots := fun k hk => ?_, sp := by simp [hsp] }
    have hne : s.sp ≠ k := ne_of_mem_of_not_mem hslot hk
    simp [hne]
  · rw [push_of_ge (by omega)] at h
    cases h

end

/-- An instruction that ends after its accesses changes what they change, and can halt. -/
theorem finish_frame {c : Touch} {s t : State} {r : Access} (hc : c.halt = true) (hr : Frame c s r.after)
    (h : finish r = .next t) : Frame c s t := by
  rcases r with ⟨a, u⟩ | u <;> cases h
  · exact hr.trans (raise_frame u hc _ a)
  · exact hr

/-! ## The frame of each instruction -/

theorem execRet_frame {s t : State} (h : execRet s = .next t) : Frame (touched .ret s) s t := by
  unfold execRet at h
  rcases pop_cases s with ⟨_, hp⟩ | ⟨_, hlt, hp⟩ | ⟨_, hp⟩ <;> rw [hp] at h <;> cases h
  · exact raise_frame s rfl _ _
  · exact (withSp_frame s rfl _).trans (withPc_frame _ rfl _)

theorem execCallAddr_frame {nnn : Addr12} {s t : State} (h : execCallAddr nnn s = .next t) :
    Frame (touched (.callAddr nnn) s) s t := by
  unfold execCallAddr at h
  split at h <;> cases h
  next u hu => exact (push_frame s rfl (List.mem_singleton_self _) hu).trans (withPc_frame u rfl _)
  next => exact raise_frame s rfl _ _

theorem execDrwVxVyN_frame {x y : Reg} {n : Nibble} {s t : State} (h : execDrwVxVyN x y n s = .next t) :
    Frame (touched (.drwVxVyN x y n) s) s t := by
  have hcoll : Frame (touched (.drwVxVyN x y n) s) s (s.withColl false) := screen_frame s rfl s.fb false s.repaint
  have hrows := hcoll.trans (drawRows_frame (s.withColl false) rfl (s.reg x).toNat (s.reg y).toNat (List.range n.toNat))
  unfold execDrwVxVyN at h
  split at h
  next u hu =>
    cases h
    rw [hu] at hrows
    exact hrows.trans (setReg_frame u (List.mem_singleton_self _) _)
  next e he =>
    rw [he] at hrows
    exact finish_frame rfl hrows h

/-- A store of `n` bytes at I changes the cells of its access alone. -/
theorem storeBytes_frame_accessCells {c : Touch} {bs : List Byte} {s : State} (hs : s.mem.wf)
    (hc : c.cells = accessCells s bs.length) : Frame c s (storeBytes 0 bs s).after :=
  storeBytes_frame s hs fun j _ hj =>
    hc ▸ List.mem_map_of_mem (List.mem_range.2 (by simpa using hj))

/-- Settles O57: each instruction is composed of operations that keep its frame. -/
theorem everyInstructionKeepsItsFrame : Obligations.EveryInstructionKeepsItsFrame := by
  intro i s t hs h
  cases i with
  | cls => cases h; exact screen_frame s rfl _ false false
  | ret => exact execRet_frame h
  | sysAddr => cases h; exact .refl _ s
  | callAddr nnn => exact execCallAddr_frame h
  | jpAddr | jpV0Addr => cases h; exact withPc_frame s rfl _
  | seVxByte | sneVxByte | seVxVy | sneVxVy | skpVx | sknpVx => cases h; exact skipIf_frame s rfl _
  | ldVxByte | addVxByte | ldVxVy | orVxVy | andVxVy | xorVxVy | ldVxDt =>
    cases h; exact setReg_frame s (List.mem_singleton_self _) _
  | addVxVy | subVxVy | shrVxVy | subnVxVy | shlVxVy =>
    cases h; exact setFlagged_frame s (by simp [touched]) (by simp [touched]) _ _
  | rndVx x =>
    cases h
    exact (withDraws_frame s rfl _).trans (setReg_frame _ (List.mem_singleton_self x) _)
  | ldIAddr | addIVx | ldFVx => cases h; exact withI_frame s rfl _
  | drwVxVyN x y n => exact execDrwVxVyN_frame h
  | ldVxK x => cases h; exact wait_frame s rfl _ _
  | ldDtVx => cases h; exact withDt_frame s rfl _
  | ldStVx => cases h; exact withSt_frame s rfl _
  | ldBVx x => exact finish_frame rfl (storeBytes_frame_accessCells hs rfl) h
  | ldIVx x => exact finish_frame rfl (storeBytes_frame_accessCells hs (by rw [dumpBytes_length]; rfl)) h
  | ldVxI x => exact finish_frame rfl (loadRegs_frame s fun k hk => List.mem_map_of_mem hk) h

/-! ## A byte write -/

/-- Settles O31: by the two cases of a write. -/
theorem storeChangesExactlyOneByte : Obligations.StoreChangesExactlyOneByte := by
  intro s a v hs
  rw [memWrite_eq]
  refine ⟨fun ha => ?_, fun ha => if_neg (Nat.not_lt.2 ha)⟩
  have hlt : a.toNat < Config.memSize := Nat.lt_succ_of_le ha
  refine ⟨_, if_pos hlt, ?_, Memory.wf_write hlt hs, writeMem_frame s hs (List.mem_singleton_self _) v⟩
  rw [State.withMem_mem, Memory.read_write hs, if_pos rfl]

/-! ## A fetch outside memory -/

/-- The step of a fetching core is a fetch and what follows it, from the boundary state (40 R124, R130). -/
theorem step_fetching {s : State} (h : s.Fetching) : step s = fetchExecute (atBoundary s) := by
  rw [step_core h.turn, coreStep_running (s := takeTurn s) h.running, cycle]
  exact if_neg (by simp [h.noStop])

/-- A fetch that fails ends the run with the address (40 R124, 60 R265). -/
theorem fetchExecute_of_fetch_error {s : State} {a : Word} (h : fetch s = .error a) :
    fetchExecute s = .next (raise .addressOutOfRange a s) := by
  rw [fetchExecute, h]

/-- Settles O10: the boundary leaves PC, and the fetch from it fails. -/
theorem fetchOutsideMemoryHaltsTheRun : Obligations.FetchOutsideMemoryHaltsTheRun := by
  intro s hs hpc
  have hpcEq : (atBoundary s).pc = s.pc := serveSave_pc (takeTurn s)
  have hfetch := fetch_error (s := atBoundary s) (hpcEq ▸ hpc)
  rw [hpcEq] at hfetch
  exact ⟨_, (step_fetching hs).trans (fetchExecute_of_fetch_error hfetch), ⟨rfl, rfl, rfl⟩, raise_frame _ rfl _ _⟩

/-! ## The copy of a ROM image -/

/-- The step of an idle machine that is sent an image (20 R72). -/
theorem step_loadRom {s : State} {bytes : List Byte} (h : s.turn = .host (.loadRom bytes)) (hr : s.run = .idle) :
    step s = .next (loadRom bytes (takeTurn s)) :=
  (step_host h).trans (if_pos hr)

/-- Settles O27: an image of at most 3584 bytes ends inside the 4096 bytes, so each of its bytes reads back. -/
theorem loadRomCopiesTheImage : Obligations.LoadRomCopiesTheImage := by
  intro s bytes hturn hr hs
  rw [step_loadRom hturn hr, loadRom]
  refine ⟨fun hlen => ?_, fun hlen => by rw [if_neg (Nat.not_le.2 hlen)]⟩
  have hfit : 0x200 + bytes.length ≤ Config.memSize := Nat.add_le_add_left hlen 0x200
  have hread := Memory.read_writeAll hfit hs
  refine ⟨_, by rw [if_pos hlen], fun k hk => ?_, fun a ha => ?_, rfl⟩
  · rw [State.withMem_mem, takeTurn_mem, hread, if_pos (by omega)]
    simp [hk]
  · rw [State.withMem_mem, takeTurn_mem, hread, if_neg (by omega)]

end Sys2Proof.Machine

/-! SUPPORT. Proofs for the family 30_encoding: which rows of the table match one word, that the case split on the opcode is sound,
and that the two decoders agree and invert the encoder. -/

namespace Sys2Proof

open Laws

/-! ## Matching a row -/

theorem Row.matchesWord_iff {r : Row} {w : Word} : r.matchesWord w = true ↔ w &&& r.mask = r.pattern := beq_iff_eq

/-- Two rows that match one word have the same pattern where both masks look. -/
theorem Row.pattern_and_mask_comm {r q : Row} {w : Word} (hr : r.matchesWord w = true) (hq : q.matchesWord w = true) :
    r.pattern &&& q.mask = q.pattern &&& r.mask := by
  rw [← Row.matchesWord_iff.1 hr, ← Row.matchesWord_iff.1 hq, BitVec.and_assoc, BitVec.and_comm r.mask, BitVec.and_assoc]

/-- A row whose mask covers every bit matches its pattern only. -/
theorem Row.eq_pattern_of_match {r : Row} {w : Word} (hmask : r.mask = 0xFFFF) (hr : r.matchesWord w = true) :
    w = r.pattern := by
  rw [← Row.matchesWord_iff.1 hr, hmask]
  exact BitVec.and_allOnes.symm

/-- A word has the pattern's bits in every field the mask covers (30 R98). -/
theorem Row.extract_of_match {r : Row} {w : Word} {start len : Nat} (hr : r.matchesWord w = true)
    (hmask : r.mask.extractLsb' start len = BitVec.allOnes len) :
    w.extractLsb' start len = r.pattern.extractLsb' start len := by
  rw [← Row.matchesWord_iff.1 hr, BitVec.extractLsb'_and, hmask, BitVec.and_allOnes]

/-! ## The rows that match one word (30 R99) -/

/-- No word but 0x00E0 and 0x00EE matches both rows, unless they are one row. -/
def Row.Exclusive (r q : Row) : Prop :=
  ∀ w : Word, r.matchesWord w = true → q.matchesWord w = true → r = q ∨ w = 0x00E0 ∨ w = 0x00EE

/-- Different rows of the table disagree on a bit both look at, unless the earlier is CLS or RET. -/
theorem table_pairwise_disagree : table.Pairwise fun r q =>
    r.pattern &&& q.mask ≠ q.pattern &&& r.mask ∨ r.mask = 0xFFFF ∧ (r.pattern = 0x00E0 ∨ r.pattern = 0x00EE) := by
  decide

theorem table_exclusive {r q : Row} (hr : r ∈ table) (hq : q ∈ table) : r.Exclusive q := by
  have hsymm : Std.Symm Row.Exclusive := ⟨fun _ _ h w hq hr => (h w hr hq).imp_left Eq.symm⟩
  have hpairs : table.Pairwise Row.Exclusive := table_pairwise_disagree.imp fun h w hr hq => by
    rcases h with hne | ⟨hmask, hp⟩
    · exact absurd (Row.pattern_and_mask_comm hr hq) hne
    · exact .inr (Row.eq_pattern_of_match hmask hr ▸ hp)
  exact hpairs.forall_of_forall (fun r _ w _ _ => .inl rfl) hr hq

/-! ## The table decoder -/

theorem decodeWord_00E0 : decodeWord 0x00E0 = .ok .cls := by decide
theorem decodeWord_00EE : decodeWord 0x00EE = .ok .ret := by decide

/-- A word other than those of CLS and RET is decoded by any row that matches it. -/
theorem decodeWord_of_match {r : Row} {w : Word} (hr : r ∈ table) (hm : r.matchesWord w = true) (hcls : w ≠ 0x00E0)
    (hret : w ≠ 0x00EE) : decodeWord w = .ok (r.build w) := by
  obtain ⟨q, hfind⟩ := Option.isSome_iff_exists.1 (List.find?_isSome (p := (Row.matchesWord · w)).2 ⟨r, hr, hm⟩)
  have hqm : q.matchesWord w = true := List.find?_some (p := (Row.matchesWord · w)) hfind
  have hqr : q = r :=
    (table_exclusive (List.mem_of_find?_eq_some hfind) hr w hqm hm).resolve_right (not_or.2 ⟨hcls, hret⟩)
  simp only [decodeWord, hfind, hqr]

theorem decodeWord_of_no_match {w : Word} (h : ∀ r ∈ table, ¬ r.matchesWord w = true) :
    decodeWord w = .error (.noMatch w) := by
  simp only [decodeWord, List.find?_eq_none.2 h]

/-! ## Decoding an encoding -/

/-- Every instruction's row matches its word and reads it back: the lemmas of `Laws.Encoding`, one a shape. -/
theorem encoding_statement : ∀ i : Instr, Encoding.Statement i
  | .cls => Encoding.cls
  | .ret => Encoding.ret
  | .sysAddr nnn => Encoding.sysAddr nnn
  | .jpAddr nnn => Encoding.jpAddr nnn
  | .callAddr nnn => Encoding.callAddr nnn
  | .seVxByte x kk => Encoding.seVxByte x kk
  | .sneVxByte x kk => Encoding.sneVxByte x kk
  | .seVxVy x y => Encoding.seVxVy x y
  | .ldVxByte x kk => Encoding.ldVxByte x kk
  | .addVxByte x kk => Encoding.addVxByte x kk
  | .ldVxVy x y => Encoding.ldVxVy x y
  | .orVxVy x y => Encoding.orVxVy x y
  | .andVxVy x y => Encoding.andVxVy x y
  | .xorVxVy x y => Encoding.xorVxVy x y
  | .addVxVy x y => Encoding.addVxVy x y
  | .subVxVy x y => Encoding.subVxVy x y
  | .shrVxVy x y => Encoding.shrVxVy x y
  | .subnVxVy x y => Encoding.subnVxVy x y
  | .shlVxVy x y => Encoding.shlVxVy x y
  | .sneVxVy x y => Encoding.sneVxVy x y
  | .ldIAddr nnn => Encoding.ldIAddr nnn
  | .jpV0Addr nnn => Encoding.jpV0Addr nnn
  | .rndVx x kk => Encoding.rndVx x kk
  | .drwVxVyN x y n => Encoding.drwVxVyN x y n
  | .skpVx x => Encoding.skpVx x
  | .sknpVx x => Encoding.sknpVx x
  | .ldVxDt x => Encoding.ldVxDt x
  | .ldVxK x => Encoding.ldVxK x
  | .ldDtVx x => Encoding.ldDtVx x
  | .ldStVx x => Encoding.ldStVx x
  | .addIVx x => Encoding.addIVx x
  | .ldFVx x => Encoding.ldFVx x
  | .ldBVx x => Encoding.ldBVx x
  | .ldIVx x => Encoding.ldIVx x
  | .ldVxI x => Encoding.ldVxI x

theorem exists_row_of_encode (i : Instr) :
    ∃ r ∈ table, r.matchesWord (encode i) = true ∧ r.build (encode i) = i := by
  obtain ⟨r, hget, hmatch, hbuild⟩ := encoding_statement i
  exact ⟨r, List.mem_of_getElem? hget, hmatch, hbuild⟩

/-- The rows that match the words of CLS and RET give CLS, RET or a SYS that is not well-formed (41 R150). -/
theorem build_00E0_of_wellFormed : ∀ r ∈ table, r.matchesWord 0x00E0 = true → WellFormed (r.build 0x00E0) →
    r.build 0x00E0 = .cls := by decide
theorem build_00EE_of_wellFormed : ∀ r ∈ table, r.matchesWord 0x00EE = true → WellFormed (r.build 0x00EE) →
    r.build 0x00EE = .ret := by decide

theorem decodeWord_encode {i : Instr} (hwf : WellFormed i) : decodeWord (encode i) = .ok i := by
  obtain ⟨r, hr, hmatch, hbuild⟩ := exists_row_of_encode i
  by_cases hcls : encode i = 0x00E0
  · rw [hcls] at hmatch hbuild ⊢
    rw [decodeWord_00E0, ← build_00E0_of_wellFormed r hr hmatch (hbuild ▸ hwf), hbuild]
  by_cases hret : encode i = 0x00EE
  · rw [hret] at hmatch hbuild ⊢
    rw [decodeWord_00EE, ← build_00EE_of_wellFormed r hr hmatch (hbuild ▸ hwf), hbuild]
  rw [decodeWord_of_match hr hmatch hcls hret, hbuild]

theorem wordOfBytes_extract (w : Word) : wordOfBytes (w.extractLsb' 8 8) (w.extractLsb' 0 8) = w := by
  refine BitVec.eq_of_toNat_eq ?_
  simp only [wordOfBytes_toNat, BitVec.extractLsb'_toNat, Nat.shiftRight_eq_div_pow]
  omega

/-- The byte decoder reads one word and leaves the rest (20 R66, 30 R90). -/
theorem decodeBytes_of_decodeWord {w : Word} {i : Instr} (h : decodeWord w = .ok i) (rest : List Byte) :
    decodeBytes (w.extractLsb' 8 8 :: w.extractLsb' 0 8 :: rest) = .ok (i, rest) := by
  simp only [decodeBytes, wordOfBytes_extract, h]

/-- Settles O1: the instruction's row is the only one that matches its word, the words of CLS and RET apart. -/
theorem decodeOfEncodeGivesTheInstruction : Obligations.DecodeOfEncodeGivesTheInstruction :=
  fun _ rest hwf => ⟨decodeWord_encode hwf, decodeBytes_of_decodeWord (decodeWord_encode hwf) rest⟩

/-! ## The case split on the opcode -/

/-! A word is its fields in order, in each format of 30 R91. -/

theorem wordA_fields {w : Word} {op : Nibble} (hop : fieldOp w = op) : wordA op (fieldNNN w) = w := by
  subst hop
  refine BitVec.eq_of_toNat_eq ?_
  simp only [wordA_toNat, fieldOp_toNat, fieldNNN_toNat]; omega
theorem wordXB_fields {w : Word} {op : Nibble} (hop : fieldOp w = op) : wordXB op (fieldX w) (fieldKK w) = w := by
  subst hop
  refine BitVec.eq_of_toNat_eq ?_
  simp only [wordXB_toNat, fieldOp_toNat, fieldX_toNat, fieldKK_toNat]; omega
theorem wordX_fields {w : Word} {op : Nibble} {f : Byte} (hop : fieldOp w = op) (hf : fieldKK w = f) :
    wordX op (fieldX w) f = w := hf ▸ wordXB_fields hop
theorem wordXY_fields {w : Word} {op f : Nibble} (hop : fieldOp w = op) (hf : fieldN w = f) :
    wordXY op (fieldX w) (fieldY w) f = w := by
  subst hop hf
  refine BitVec.eq_of_toNat_eq ?_
  simp only [wordXY_toNat, fieldOp_toNat, fieldX_toNat, fieldY_toNat, fieldN_toNat]; omega

theorem fieldOp_eq_F {op : Nibble} (h : op ∉ [0x0, 0x1, 0x2, 0x3, 0x4, 0x5, 0x6, 0x7, 0x8, 0x9, 0xA, 0xB, 0xC, 0xD, 0xE]) :
    op = 0xF := by revert op; decide

theorem decodeAlu_sound {x y : Reg} {f : Nibble} {i : Instr} (h : decodeAlu x y f = some i) :
    WellFormed i ∧ encode i = wordXY 0x8 x y f := by
  unfold decodeAlu at h
  split at h <;> cases h <;> exact ⟨rfl, rfl⟩

theorem decodeMisc_sound {x : Reg} {f : Byte} {i : Instr} (h : decodeMisc x f = some i) :
    WellFormed i ∧ encode i = wordX 0xF x f := by
  unfold decodeMisc at h
  split at h <;> cases h <;> exact ⟨rfl, rfl⟩

/-- SYS stands for a word with opcode 0 other than those of CLS and RET (41 R150). -/
theorem wellFormed_sysAddr_fieldNNN {w : Word} (hop : fieldOp w = 0x0) (hcls : w ≠ 0x00E0) (hret : w ≠ 0x00EE) :
    WellFormed (.sysAddr (fieldNNN w)) := by
  rw [← wordA_fields hop] at hcls hret
  simp only [WellFormed, Instr.wf, Bool.and_eq_true, bne_iff_ne]
  exact ⟨fun h => hcls (by rw [h]; rfl), fun h => hret (by rw [h]; rfl)⟩

theorem decodeByOpcode_sound {w : Word} {i : Instr} (h : decodeByOpcode w = some i) : WellFormed i ∧ encode i = w := by
  unfold decodeByOpcode at h
  split at h
  case h_1 hop =>
    split_ifs at h with hcls hret
    · cases h; exact ⟨rfl, hcls.symm⟩
    · cases h; exact ⟨rfl, hret.symm⟩
    · cases h; exact ⟨wellFormed_sysAddr_fieldNNN hop hcls hret, wordA_fields hop⟩
  case h_2 hop | h_3 hop | h_11 hop | h_12 hop => cases h; exact ⟨rfl, wordA_fields hop⟩
  case h_4 hop | h_5 hop | h_7 hop | h_8 hop | h_13 hop => cases h; exact ⟨rfl, wordXB_fields hop⟩
  case h_6 hop | h_10 hop =>
    split_ifs at h with hn
    cases h; exact ⟨rfl, wordXY_fields hop hn⟩
  case h_9 hop => exact (decodeAlu_sound h).imp_right (·.trans (wordXY_fields hop rfl))
  case h_14 hop => cases h; exact ⟨rfl, wordXY_fields hop rfl⟩
  case h_15 hop =>
    split_ifs at h with hskp hsknp
    · cases h; exact ⟨rfl, wordX_fields hop hskp⟩
    · cases h; exact ⟨rfl, wordX_fields hop hsknp⟩
  case h_16 =>
    have hop : fieldOp w = 0xF := fieldOp_eq_F (by simp_all)
    exact (decodeMisc_sound h).imp_right (·.trans (wordX_fields hop rfl))

/-! ## The words that match nothing (30 R104) -/

/-- The groups of 30 R104. -/
abbrev Unmatched (w : Word) : Prop :=
  ((fieldOp w = 0x5 ∨ fieldOp w = 0x9) ∧ fieldN w ≠ 0) ∨
  (fieldOp w = 0x8 ∧ fieldN w ∈ [0x8, 0x9, 0xA, 0xB, 0xC, 0xD, 0xF]) ∨
  (fieldOp w = 0xE ∧ fieldKK w ∉ [0x9E, 0xA1]) ∨
  (fieldOp w = 0xF ∧ fieldKK w ∉ [0x07, 0x0A, 0x15, 0x18, 0x1E, 0x29, 0x33, 0x55, 0x65])

/-- Every row fixes the opcode, and with it the low nibble or the low byte where the groups look at them; its pattern is in no
group. -/
theorem table_masks : ∀ r ∈ table, fieldOp r.mask = BitVec.allOnes 4 ∧
    (fieldOp r.pattern ∈ [0x5, 0x8, 0x9] → fieldN r.mask = BitVec.allOnes 4) ∧
    (fieldOp r.pattern ∈ [0xE, 0xF] → fieldKK r.mask = BitVec.allOnes 8) ∧ ¬ Unmatched r.pattern := by decide

theorem not_match_of_unmatched {w : Word} (h : Unmatched w) : ∀ r ∈ table, ¬ r.matchesWord w = true := by
  intro r hr hm
  obtain ⟨hmaskOp, hmaskN, hmaskKK, hpattern⟩ := table_masks r hr
  have hop : fieldOp w = fieldOp r.pattern := Row.extract_of_match hm hmaskOp
  have hn (h) : fieldN w = fieldN r.pattern := Row.extract_of_match hm (hmaskN h)
  have hkk (h) : fieldKK w = fieldKK r.pattern := Row.extract_of_match hm (hmaskKK h)
  refine hpattern ?_
  rw [Unmatched, hop] at h
  rcases h with ⟨h59, hf⟩ | ⟨h8, hf⟩ | ⟨hE, hf⟩ | ⟨hF, hf⟩
  · exact .inl ⟨h59, hn (by rcases h59 with h | h <;> simp [h]) ▸ hf⟩
  · exact .inr (.inl ⟨h8, hn (by simp [h8]) ▸ hf⟩)
  · exact .inr (.inr (.inl ⟨hE, hkk (by simp [hE]) ▸ hf⟩))
  · exact .inr (.inr (.inr ⟨hF, hkk (by simp [hF]) ▸ hf⟩))

theorem decodeAlu_none {x y : Reg} {f : Nibble} (h : decodeAlu x y f = none) : f ∈ [0x8, 0x9, 0xA, 0xB, 0xC, 0xD, 0xF] := by
  unfold decodeAlu at h
  split at h
  case h_10 => revert f; decide
  all_goals cases h

theorem decodeMisc_none {x : Reg} {f : Byte} (h : decodeMisc x f = none) :
    f ∉ [0x07, 0x0A, 0x15, 0x18, 0x1E, 0x29, 0x33, 0x55, 0x65] := by
  unfold decodeMisc at h
  split at h
  case h_10 => simp_all
  all_goals cases h

theorem unmatched_of_decodeByOpcode {w : Word} (h : decodeByOpcode w = none) : Unmatched w := by
  unfold decodeByOpcode at h
  split at h
  case h_1 => split_ifs at h
  case h_6 hop => exact .inl ⟨.inl hop, by simpa using h⟩
  case h_10 hop => exact .inl ⟨.inr hop, by simpa using h⟩
  case h_9 hop => exact .inr (.inl ⟨hop, decodeAlu_none h⟩)
  case h_15 hop =>
    split_ifs at h with hskp hsknp
    exact .inr (.inr (.inl ⟨hop, by simp_all⟩))
  case h_16 =>
    have hop : fieldOp w = 0xF := fieldOp_eq_F (by simp_all)
    exact .inr (.inr (.inr ⟨hop, decodeMisc_none h⟩))
  all_goals cases h

/-! ## The two decoders agree -/

theorem decodeWord_toOption (w : Word) : (decodeWord w).toOption = decodeByOpcode w := by
  cases h : decodeByOpcode w with
  | none => rw [decodeWord_of_no_match (not_match_of_unmatched (unmatched_of_decodeByOpcode h))]; rfl
  | some i =>
    obtain ⟨hwf, rfl⟩ := decodeByOpcode_sound h
    rw [decodeWord_encode hwf]; rfl

/-- Settles O3: where the split gives an instruction, it is well-formed and encodes to the word; where it gives none, no row
matches. -/
theorem tableDecoderIsTheOpcodeSplit : Obligations.TableDecoderIsTheOpcodeSplit := decodeWord_toOption

/-- Settles O2: through the case split on the opcode. -/
theorem encodeOfDecodeGivesTheWord : Obligations.EncodeOfDecodeGivesTheWord := by
  intro w i h
  refine decodeByOpcode_sound ?_
  rw [← decodeWord_toOption, h]; rfl

/-- Settles O4: the case split gives none only in the groups, and no row matches a word of a group. -/
theorem unmatchedWordsAreThoseListed : Obligations.UnmatchedWordsAreThoseListed := by
  refine fun w => ⟨fun h => unmatched_of_decodeByOpcode ?_, fun h => decodeWord_of_no_match (not_match_of_unmatched h)⟩
  rw [← decodeWord_toOption, h]; rfl

/-- Settles O5: different rows of the table exclude each other. -/
theorem onlyClsAndRetWordsMatchTwoRows : Obligations.OnlyClsAndRetWordsMatchTwoRows :=
  ⟨fun w _ _ hr hq hrw hqw => (table_exclusive hr hq w hrw hqw).imp_left (congrArg Row.mnemonic), decodeWord_00E0,
    decodeWord_00EE⟩

/-- Settles O6: by evaluation of the nine words. -/
theorem specWordsDecodeAsListed : Obligations.SpecWordsDecodeAsListed := by
  unfold Obligations.SpecWordsDecodeAsListed
  decide

end Sys2Proof

/-! SUPPORT. Proofs for the family 40_pipeline_cycle: the fetch, the cycle that runs the decoded instruction, the latches at the
cycle boundary, the key wait, and the end of a cycle. -/

namespace Sys2Proof.Machine

/-! ## The fetch -/

theorem wordAtPc_toNat (s : State) :
    (wordAtPc s).toNat = 256 * (s.mem.read s.pc.toNat).toNat + (s.mem.read (s.pc.toNat + 1)).toNat := by
  rw [wordAtPc, wordOfBytes_toNat, Nat.mul_comm]

/-- Settles O7: below 0x0FFF the fetch gives the word at PC, and there PC + 2 does not wrap. -/
theorem fetchReadsBigEndianAndAdvances : Obligations.FetchReadsBigEndianAndAdvances := by
  refine fun s => ⟨fun h => ?_, fun h => ?_, fun h => ?_⟩
  · refine ⟨wordAtPc s, _, fetch_ok h, wordAtPc_toNat s, ?_, withPc_frame s rfl _⟩
    have h2 : (2 : Word).toNat = 2 := rfl
    rw [State.withPc_pc, BitVec.toNat_add, h2]
    omega
  · have hpc : s.pc = 0x0FFF := BitVec.eq_of_toNat_eq h
    rw [fetch_error h.ge, if_pos hpc]
  · have hpc : s.pc ≠ 0x0FFF := fun hp => by simp [hp] at h
    rw [fetch_error (by omega), if_neg hpc]

/-! ## The cycle of a decoded instruction -/

/-- The boundary changes no memory and not PC, so the fetch after it finds the word at PC. -/
theorem fetch_atBoundary {s : State} (h : s.pc.toNat < 0x0FFF) :
    fetch (atBoundary s) = .ok (wordAtPc s, (atBoundary s).withPc (s.pc + 2)) := by
  have hpc : (atBoundary s).pc = s.pc := serveSave_pc (takeTurn s)
  have hmem : (atBoundary s).mem = s.mem := serveSave_mem (takeTurn s)
  rw [fetch_ok (hpc.symm ▸ h), hpc, hmem, wordAtPc]

/-- A fetched word that decodes is executed (40 R124). -/
theorem fetchExecute_of_decode {s t : State} {w : Word} {i : Instr} (hf : fetch s = .ok (w, t))
    (hd : decodeWord w = .ok i) : fetchExecute s = executeCycle i t := by
  simp only [fetchExecute, hf, hd]

/-- Settles O8: the word at PC is fetched from the boundary state; `executeCycle` executes it and ends the cycle. -/
theorem stepRunsTheDecodedInstruction : Obligations.StepRunsTheDecodedInstruction := by
  intro s i hs hpc hd
  calc
    step s = fetchExecute (atBoundary s) := step_fetching hs
    _ = executeCycle i ((atBoundary s).withPc (s.pc + 2)) := fetchExecute_of_decode (fetch_atBoundary hpc) hd

/-! ## The latches at the cycle boundary -/

/-- A stop is served before anything else in a cycle (40 R130). -/
theorem step_running_stop {s : State} (ht : s.turn = .core) (hr : s.run = .running) (hstop : s.stopReq = true) :
    step s = .next (haltStop (takeTurn s)) := by
  rw [step_core ht, coreStep_running (s := takeTurn s) hr]
  exact if_pos hstop

theorem haltStop_haltedWith (s : State) : HaltedWith .stop 0 (haltStop s) := ⟨rfl, rfl, rfl⟩

@[simp] theorem haltStop_choices (s : State) : (haltStop s).choices = s.choices := raise_choices _ _ s

@[simp] theorem haltStop_reg (s : State) (r : Reg) : (haltStop s).reg r = s.reg r := raise_reg _ _ s r

theorem haltStop_frame (s : State) : Frame { halt := true } s (haltStop s) := raise_frame s rfl _ _

theorem atBoundary_of_noSave {s : State} (h : s.saveReq = false) : atBoundary s = takeTurn s :=
  if_neg (by simp [h])

/-- A snapshot does not hold the schedule, so it is the same before and after the turn is taken. -/
theorem atBoundary_of_save {s : State} (h : s.saveReq = true) :
    atBoundary s = takeTurn ((s.withEmitted (.snapshot (snapshot s) :: s.emitted)).withSaveReq false) :=
  if_pos h

/-- Settles O11: a stop is served first; after a save the boundary state is that of the state with the snapshot emitted. -/
theorem stopAndSaveAreSampledAtTheBoundary : Obligations.StopAndSaveAreSampledAtTheBoundary := by
  refine ⟨fun s ht hr hstop => ?_, fun s hs hsave => ?_⟩
  · exact ⟨_, step_running_stop ht hr hstop, haltStop_haltedWith _, haltStop_frame _⟩
  · have hserved : ((s.withEmitted (.snapshot (snapshot s) :: s.emitted)).withSaveReq false).Fetching := { hs with }
    rw [step_fetching hs, step_fetching hserved, atBoundary_of_save hsave, atBoundary_of_noSave rfl]

/-! ## The key wait -/

theorem step_waitKey {s : State} {x : Reg} (ht : s.turn = .core) (hr : s.run = .waitKey x) :
    step s = .next (resume x (takeTurn s)) :=
  (step_core ht).trans (coreStep_waitKey (s := takeTurn s) hr)

section
variable {x : Reg} {s : State}

theorem resume_of_neither (hstop : s.stopReq = false) (hwake : s.keyWake = false) : resume x s = s := by
  rw [resume, hstop, hwake]

theorem resume_of_stop (hstop : s.stopReq = true) (hwake : s.keyWake = false) : resume x s = haltStop s := by
  rw [resume, hstop, hwake]

theorem resume_of_both (hstop : s.stopReq = true) (hwake : s.keyWake = true) :
    resume x s =
      if Config.stopWins s.choices then haltStop (s.withChoices (s.choices + 1))
      else takeKey x (s.withChoices (s.choices + 1)) := by
  rw [resume, hstop, hwake]

end

@[simp] theorem takeKey_run (x : Reg) (s : State) : (takeKey x s).run = .running := by simp [takeKey]

@[simp] theorem takeKey_choices (x : Reg) (s : State) : (takeKey x s).choices = s.choices := by simp [takeKey]

@[simp] theorem takeKey_reg (x r : Reg) (s : State) :
    (takeKey x s).reg r = if r = x then s.lastKey.setWidth 8 else s.reg r := by simp [takeKey]

/-- Settles O12: by the three cases of the two latches; with both set, by the two values of the free choice. -/
theorem keyWaitStandsStillOrStops : Obligations.KeyWaitStandsStillOrStops := by
  intro s x ht hr
  rw [step_waitKey ht hr]
  refine ⟨fun hstop hwake => ?_, fun hstop hwake => ?_, fun hstop hwake => ?_⟩
  · rw [resume_of_neither (s := takeTurn s) hstop hwake]
  · rw [resume_of_stop (s := takeTurn s) hstop hwake]
    exact ⟨_, rfl, haltStop_haltedWith _, haltStop_frame _⟩
  · rw [resume_of_both (s := takeTurn s) hstop hwake]
    refine ⟨_, rfl, ?_⟩
    split
    · exact ⟨haltStop_choices _, .inl ⟨haltStop_haltedWith _, haltStop_reg _⟩⟩
    · refine ⟨takeKey_choices x _, .inr ⟨takeKey_run x _, ?_⟩⟩
      rw [takeKey_reg, if_pos rfl, BitVec.toNat_setWidth_of_le (by decide)]
      rfl

/-! ## The end of a cycle -/

theorem State.withRepaint_of_eq {s : State} {a : Bool} (h : s.repaint = a) : s.withRepaint a = s := by
  subst h; rfl

theorem consumeRepaint_eq (s : State) :
    consumeRepaint s =
      (s.withEmitted (if s.repaint = true then .repaint s.fb :: s.emitted else s.emitted)).withRepaint false := by
  cases h : s.repaint with
  | true => exact if_pos h
  | false => exact (if_neg (by simp [h])).trans (State.withRepaint_of_eq h).symm

/-- Settles O15: by the two cases of the comparison with REFRESH; a tick is the two timers and the repaint. -/
theorem endOfCycleTicksEveryRefreshCycles : Obligations.EndOfCycleTicksEveryRefreshCycles := by
  refine fun s => ⟨fun h => ?_, fun h => ?_, fun h => ?_⟩
  · rw [endOfCycle_eq, if_neg (by omega)]
  · rw [endOfCycle_eq, if_pos h, timerTick, consumeRepaint_eq]
    rfl
  · rw [endOfCycle_eq]
    split
    next => exact h
    next hlt => exact Nat.lt_of_not_le hlt

end Sys2Proof.Machine

/-! SUPPORT. Proofs for the family 41_flow: the jumps, the skips, and the two cases of a call and of a return. -/

namespace Sys2Proof.Machine

/-! ## Jumps -/

/-- Settles O35: the largest address and the largest byte add up to 0x10FE, so the 16-bit sum does not wrap. -/
theorem jumpPlusV0AddsV0ToTheAddress : Obligations.JumpPlusV0AddsV0ToTheAddress := by
  intro s nnn
  have hsum : (zextAddr nnn + zextByte (s.reg 0)).toNat = nnn.toNat + (s.reg 0).toNat := by
    rw [BitVec.toNat_add, zextAddr_toNat, zextByte_toNat]
    omega
  refine ⟨_, rfl, hsum, ?_, withPc_frame s rfl _⟩
  rw [State.withPc_pc, hsum]
  omega

/-- Settles O34: SYS answers the state it was given, and JP writes PC alone. -/
theorem sysAndJumpTouchPcAtMost : Obligations.SysAndJumpTouchPcAtMost :=
  fun s nnn => ⟨⟨s, rfl, .refl _ s⟩, ⟨_, rfl, zextAddr_toNat nnn, withPc_frame s rfl _⟩⟩

/-! ## Skips -/

theorem skipIf_pc_toNat (c : Bool) (s : State) :
    (skipIf c s).pc.toNat = (s.pc.toNat + if c = true then 2 else 0) % 65536 := by
  rw [skipIf_eq, State.withPc_pc]
  split
  · exact BitVec.toNat_add _ _
  · exact (Nat.mod_eq_of_lt s.pc.isLt).symm

section
variable {i : Instr} {s : State} {c : Bool} {p : Prop} [Decidable p] (hi : exec i s = .next (skipIf c s))
include hi

/-- An instruction whose test decides `p` skips exactly when `p` holds (41 R159). -/
theorem exec_skips_if (hc : c = true ↔ p) : ∃ t, exec i s = .next t ∧ Frame { pc := true } s t ∧
    t.pc.toNat = (s.pc.toNat + (if p then 2 else 0)) % 65536 := by
  refine ⟨_, hi, skipIf_frame s rfl c, ?_⟩
  rw [skipIf_pc_toNat]
  simp only [hc]

theorem exec_skips_unless (hc : c = true ↔ ¬p) : ∃ t, exec i s = .next t ∧ Frame { pc := true } s t ∧
    t.pc.toNat = (s.pc.toNat + (if p then 0 else 2)) % 65536 := by
  rw [← ite_not]
  exact exec_skips_if hi hc

end

/-- Settles O36: SE tests that the registers are equal, SNE that they are not. -/
theorem registerComparesSkipOnTheirTest : Obligations.RegisterComparesSkipOnTheirTest :=
  fun _ _ _ => ⟨exec_skips_if rfl beq_iff_eq, exec_skips_unless rfl bne_iff_ne⟩

/-- KEYS has 16 bits, so only an index below 16 can be held (45 R247, decision D15). -/
theorem isPressed_iff (k : Byte) (s : State) :
    isPressed k s = true ↔ k.toNat < 16 ∧ s.keys.getLsbD k.toNat = true := by
  rw [isPressed_eq]
  exact ⟨fun h => ⟨BitVec.lt_of_getLsbD h, h⟩, And.right⟩

/-- Settles O37: SE and SNE test the byte, SKP and SKNP the key that V[x] names. -/
theorem byteComparesAndKeyTestsSkip : Obligations.ByteComparesAndKeyTestsSkip := by
  intro s x kk
  have hkey := isPressed_iff (s.reg x) s
  have hnokey : (!isPressed (s.reg x) s) = true ↔ ¬((s.reg x).toNat < 16 ∧ s.keys.getLsbD (s.reg x).toNat = true) := by
    rw [← hkey, Bool.not_eq_true', Bool.not_eq_true]
  exact ⟨exec_skips_if rfl beq_iff_eq, exec_skips_unless rfl bne_iff_ne, exec_skips_if rfl hkey,
    exec_skips_unless rfl hnokey⟩

/-! ## Calls and returns -/

theorem raise_haltedWith (e : Err) (w : Word) (s : State) : HaltedWith e w (raise e w s) := ⟨rfl, rfl, rfl⟩

/-- A call below the capacity (41 R153). -/
theorem execCallAddr_of_lt {s : State} (h : s.sp < 16) (nnn : Addr12) :
    execCallAddr nnn s =
      .next (((s.withStack (s.stack.set s.sp s.pc h)).withSp (s.sp + 1)).withPc (zextAddr nnn)) := by
  rw [execCallAddr, push_of_lt h]

/-- The word of a CALL, which a full stack records. -/
theorem encode_callAddr (nnn : Addr12) : encode (.callAddr nnn) = 0x2000 ||| nnn.setWidth 16 := rfl

/-- A call at the capacity (60 R263). -/
theorem execCallAddr_of_ge {s : State} (h : 16 ≤ s.sp) (nnn : Addr12) :
    execCallAddr nnn s = .next (raise .stackOverflow (0x2000 ||| nnn.setWidth 16) s) := by
  rw [execCallAddr, push_of_ge h, encode_callAddr]

/-- Settles O38: by the two cases of the push. -/
theorem callPushesTheReturnAddress : Obligations.CallPushesTheReturnAddress := by
  refine fun s nnn => ⟨fun h => ?_, fun h => ?_⟩
  · have hpush := push_frame (c := { pc := true, sp := true, slots := [s.sp] }) s rfl (List.mem_singleton_self _)
      (push_of_lt h s.pc)
    exact ⟨_, execCallAddr_of_lt h nnn, by simp, rfl, zextAddr_toNat nnn, hpush.trans (withPc_frame _ rfl _)⟩
  · exact ⟨_, execCallAddr_of_ge h.ge nnn, raise_haltedWith _ _ s, raise_frame s rfl _ _⟩

/-- A return from a stack with 1 to 16 entries (41 R151). -/
theorem execRet_of_lt {s : State} (h0 : s.sp ≠ 0) (h : s.sp - 1 < 16) :
    execRet s = .next ((s.withSp (s.sp - 1)).withPc (s.stack[s.sp - 1]'h)) := by
  rw [execRet, pop_of_lt h0 h]

/-- A return from an empty stack (60 R264). -/
theorem execRet_empty {s : State} (h0 : s.sp = 0) : execRet s = .next (raise .stackUnderflow 0x00EE s) := by
  rw [execRet, pop_empty h0]
  rfl

/-- Settles O39: by the two cases of the pop. -/
theorem retPopsTheReturnAddress : Obligations.RetPopsTheReturnAddress := by
  refine fun s => ⟨fun hpos hle => ?_, fun h => ?_⟩
  · have hlt : s.sp - 1 < 16 := by omega
    exact ⟨_, execRet_of_lt (by omega) hlt, Vector.getElem?_eq_getElem hlt, Nat.sub_add_cancel hpos,
      (withSp_frame s rfl _).trans (withPc_frame _ rfl _)⟩
  · exact ⟨_, execRet_empty h, raise_haltedWith _ _ s, raise_frame s rfl _ _⟩

end Sys2Proof.Machine

/-! SUPPORT. Proofs for the family 42_alu: the moves, the logic and the byte add, the flag-writing shapes, and the random byte. -/

namespace Sys2Proof.Machine

theorem State.reg_setReg_self (s : State) (x : Reg) (b : Byte) : (s.setReg x b).reg x = b := by
  rw [State.reg_setReg, if_pos rfl]

/-! ## Instructions that write one register -/

/-- An instruction that is one register write gives the byte and touches no other register, VF included. -/
theorem exec_writes_reg {i : Instr} {s : State} {x : Reg} {b : Byte} (hi : exec i s = .next (s.setReg x b)) :
    ∃ t, exec i s = .next t ∧ t.reg x = b ∧ Frame { regs := [x] } s t :=
  ⟨_, hi, State.reg_setReg_self s x b, setReg_frame s (List.mem_singleton_self x) b⟩

/-- Settles O40: three moves write a register, the others DT, ST and I. -/
theorem movesWriteTheirOneDestination : Obligations.MovesWriteTheirOneDestination :=
  fun s _ _ _ nnn => ⟨exec_writes_reg rfl, exec_writes_reg rfl, exec_writes_reg rfl,
    ⟨_, rfl, rfl, withDt_frame s rfl _⟩, ⟨_, rfl, rfl, withSt_frame s rfl _⟩,
    ⟨_, rfl, zextAddr_toNat nnn, withI_frame s rfl _⟩⟩

/-- An instruction whose byte is a bit operation of two registers, said bit by bit. -/
theorem exec_writes_bits {i : Instr} {s : State} {x : Reg} {b : Byte} {f : Nat → Bool}
    (hi : exec i s = .next (s.setReg x b)) (hb : ∀ k, b.getLsbD k = f k) :
    ∃ t, exec i s = .next t ∧ Frame { regs := [x] } s t ∧ ∀ k, k < 8 → (t.reg x).getLsbD k = f k := by
  obtain ⟨t, ht, hreg, hframe⟩ := exec_writes_reg hi
  exact ⟨t, ht, hframe, fun k _ => hreg ▸ hb k⟩

/-- Settles O41: each is one register write, so VF is touched only as the destination. -/
theorem addByteAndLogicLeaveTheFlag : Obligations.AddByteAndLogicLeaveTheFlag := by
  intro s x y kk
  refine ⟨⟨_, rfl, ?_, setReg_frame s (List.mem_singleton_self x) _⟩, exec_writes_bits rfl fun _ => BitVec.getLsbD_or,
    exec_writes_bits rfl fun _ => BitVec.getLsbD_and, exec_writes_bits rfl fun _ => BitVec.getLsbD_xor⟩
  rw [State.reg_setReg_self, trunc8_toNat]

/-! ## Instructions that write a result and a flag -/

theorem setFlagged_reg_self (x : Reg) (b : Byte) (f : Bool) (s : State) : (setFlagged x b f s).reg x = b := by
  rw [setFlagged_eq, State.reg_setReg_self]

theorem setFlagged_reg_vf {x : Reg} (hx : x ≠ vf) (b : Byte) (f : Bool) (s : State) :
    (setFlagged x b f s).reg vf = flagByte f := by
  rw [setFlagged_eq, State.reg_setReg, if_neg hx.symm, State.reg_setReg_self]

/-- What a flag-writing shape does, as numbers: the result is there for every x, the flag for x other than 15 (42 R183). -/
theorem exec_sets_flagged {i : Instr} {s : State} {x : Reg} {b : Byte} {f : Bool} {n m : Nat}
    (hi : exec i s = .next (setFlagged x b f s)) (hb : b.toNat = n) (hf : f.toNat = m) :
    ∃ t, exec i s = .next t ∧ Frame { regs := [x, vf] } s t ∧ (t.reg x).toNat = n ∧
      (x ≠ vf → (t.reg vf).toNat = m) := by
  refine ⟨_, hi, setFlagged_frame s (by simp) (by simp) b f, ?_, fun hx => ?_⟩
  · rw [setFlagged_reg_self, hb]
  · rw [setFlagged_reg_vf hx, flagByte_toNat, hf]

theorem carryFlag_toNat (a b : Byte) : (carryFlag a b).toNat = if 255 < a.toNat + b.toNat then 1 else 0 := by
  rw [carryFlag_eq, Bool.toNat, Bool.cond_decide]

theorem notBorrowFlag_toNat (a b : Byte) : (notBorrowFlag a b).toNat = if b.toNat < a.toNat then 1 else 0 := by
  rw [notBorrowFlag_eq, Bool.toNat, Bool.cond_decide]

theorem lowBit_toNat (a : Byte) : (lowBit a).toNat = a.toNat % 2 := by
  rw [lowBit, BitVec.getLsbD, Nat.toNat_testBit, Nat.pow_zero, Nat.div_one]

theorem highBit_toNat (a : Byte) : (highBit a).toNat = a.toNat / 128 := by
  rw [highBit, BitVec.getLsbD, Nat.toNat_testBit]
  omega

/-- A wrapped difference, with the subtrahend taken from 256 above. -/
theorem byteSub_toNat (a b : Byte) : (a - b).toNat = (256 + a.toNat - b.toNat) % 256 := by
  rw [BitVec.toNat_sub]
  omega

/-- Settles O42: the result is the truncated sum, the flag its ninth bit. -/
theorem addSetsSumAndCarry : Obligations.AddSetsSumAndCarry :=
  fun _ _ _ => exec_sets_flagged rfl (trunc8_toNat _) (carryFlag_toNat _ _)

/-- Settles O43: SUB and SUBN differ in the order of the operands alone. -/
theorem subtractionsSetDifferenceAndNotBorrow : Obligations.SubtractionsSetDifferenceAndNotBorrow :=
  fun _ _ _ => ⟨exec_sets_flagged rfl (byteSub_toNat _ _) (notBorrowFlag_toNat _ _),
    exec_sets_flagged rfl (byteSub_toNat _ _) (notBorrowFlag_toNat _ _)⟩

/-- Settles O44: a shift by one is a division or a multiplication by 2, the flag bit 0 or bit 7 of the old value. -/
theorem shiftsMoveOneBitIntoTheFlag : Obligations.ShiftsMoveOneBitIntoTheFlag := by
  intro s x y
  have hshr : (s.reg x >>> 1).toNat = (s.reg x).toNat / 2 := by
    rw [BitVec.toNat_ushiftRight, Nat.shiftRight_one]
  have hshl : (s.reg x <<< 1).toNat = (s.reg x).toNat * 2 % 256 := by
    rw [BitVec.toNat_shiftLeft, Nat.shiftLeft_eq]
  exact ⟨exec_sets_flagged rfl hshr (lowBit_toNat _), exec_sets_flagged rfl hshl (highBit_toNat _)⟩

/-! ## The random byte -/

/-- Settles O45: a draw, counted, and then one register write of the drawn byte under the mask. -/
theorem randomByteIsMasked : Obligations.RandomByteIsMasked := by
  intro s x kk
  have hreg := State.reg_setReg_self (s.withDraws (s.draws + 1)) x (Config.rand s.draws &&& kk)
  refine ⟨(s.withDraws (s.draws + 1)).setReg x (Config.rand s.draws &&& kk), rfl, hreg, rfl, fun k hk => ?_, ?_⟩
  · rw [hreg, BitVec.getLsbD_and, hk, Bool.and_false]
  · exact (withDraws_frame s rfl _).trans (setReg_frame _ (List.mem_singleton_self x) _)

end Sys2Proof.Machine

/-! SUPPORT. Proofs for the family 43_display: what leaves the screen clear, a sprite row as one mask, and the rows of a
sprite drawn one after the other, inside memory and past its end. -/

namespace Sys2Proof.Machine

/-! ## A clear screen -/

/-- The step of an idle machine that is sent `Reset` (70 R300). -/
theorem step_reset {s : State} (h : s.turn = .host .reset) (hr : s.run = .idle) :
    step s = .next (resetMachine (takeTurn s)) :=
  (step_host h).trans (if_pos hr)

/-- The step of a halted core is the cleanup (60 R269). -/
theorem step_halted {s : State} (h : s.turn = .core) (hr : s.run = .halted) : step s = .next (cleanup (takeTurn s)) :=
  (step_core h).trans (coreStep_halted (s := takeTurn s) hr)

/-- Settles O47: CLS, a reset and the cleanup each write a blank grid and both flags. -/
theorem clsClearsTheScreenAndItsFlags : Obligations.ClsClearsTheScreenAndItsFlags := by
  refine ⟨fun s => ?_, fun s h => ?_⟩
  · exact ⟨_, rfl, Grid.pixel_blank, rfl, rfl, screen_frame s rfl _ false false⟩
  · rcases h with ⟨ht, hr⟩ | ⟨ht, hr⟩
    · exact ⟨_, step_reset ht hr, Grid.pixel_blank, rfl, rfl⟩
    · exact ⟨_, step_halted ht hr, Grid.pixel_blank, rfl, rfl⟩

/-! ## One sprite row -/

theorem Grid.pixel_congr (g : Grid) {x y u v : Nat} (hx : x % 64 = u % 64) (hy : y % 32 = v % 32) :
    g.pixel x y = g.pixel u v := by
  rw [← Grid.pixel_mod g x, hx, hy, Grid.pixel_mod]

theorem rowBit_iff {x y : Nat} {b : Byte} {u v : Nat} :
    rowBit x y b u v = true ↔ ∃ j < 8, u % 64 = (x + j) % 64 ∧ v % 32 = y % 32 ∧ b.getMsbD j = true := by
  simp [rowBit, and_assoc]

/-- A sprite row collides exactly when it has a bit 1 on a lit pixel (43 R206). -/
theorem drawByte_coll_iff (x y : Nat) (b : Byte) (s : State) :
    (drawByte x y b s).coll = true ↔
      s.coll = true ∨ ∃ u v, s.fb.pixel u v = true ∧ rowBit x y b u v = true := by
  rw [drawByte_coll, Bool.or_eq_true, List.any_eq_true]
  refine or_congr_right ⟨fun ⟨j, hj, h⟩ => ?_, fun ⟨u, v, hp, hb⟩ => ?_⟩
  · obtain ⟨hp, hb⟩ := Bool.and_eq_true_iff.1 h
    exact ⟨x + j, y, hp, rowBit_iff.2 ⟨j, List.mem_range.1 hj, rfl, rfl, hb⟩⟩
  · obtain ⟨j, hj, hu, hv, hbit⟩ := rowBit_iff.1 hb
    exact ⟨j, List.mem_range.2 hj, Bool.and_eq_true_iff.2 ⟨s.fb.pixel_congr hu hv ▸ hp, hbit⟩⟩

/-! ## A sprite row as one mask -/

/-- The sprite byte left aligned in a screen row and rotated right by the column. -/
def rowMask (x : Nat) (b : Byte) : BitVec 64 := ((b.setWidth 64) <<< 56).rotateRight (x % 64)

/-- Column u of the mask is the sprite bit u - x, modulo 64. -/
theorem getMsbD_rowMask (x : Nat) (b : Byte) {u : Nat} (hu : u < 64) :
    (rowMask x b).getMsbD u = b.getMsbD ((u + 64 - x % 64) % 64) := by
  have haligned (k : Nat) : ((b.setWidth 64) <<< 56).getMsbD k = b.getMsbD k := by
    rw [BitVec.getMsbD_shiftLeft, BitVec.getMsbD_setWidth]
    simp
  rw [rowMask, BitVec.getMsbD_rotateRight, haligned, haligned, decide_eq_true hu, Bool.true_and, ← apply_ite b.getMsbD]
  congr 1
  split <;> omega

/-- The mask has a bit 1 in the columns of the row's bits 1: at most one bit of the row falls on a column. -/
theorem rowBit_eq_rowMask (x y : Nat) (b : Byte) (u v : Nat) :
    rowBit x y b u v = (decide (v % 32 = y % 32) && (rowMask x b).getMsbD (u % 64)) := by
  rw [getMsbD_rowMask x b (Nat.mod_lt _ (by decide)), Bool.eq_iff_iff, Bool.and_eq_true, decide_eq_true_iff, rowBit_iff]
  refine ⟨fun ⟨j, hj, hu, hv, hb⟩ => ⟨hv, ?_⟩, fun ⟨hv, hb⟩ => ?_⟩
  · rwa [show (u % 64 + 64 - x % 64) % 64 = j by omega]
  · exact ⟨_, BitVec.lt_of_getMsbD hb, by omega, hv, hb⟩

theorem ne_zero_iff_exists_getMsbD {w : Nat} {r : BitVec w} : r ≠ 0 ↔ ∃ u, r.getMsbD u = true := by
  refine ⟨fun h => ?_, fun ⟨u, hu⟩ h => by simp [h] at hu⟩
  by_contra hno
  exact h (BitVec.eq_of_getMsbD_eq fun u _ => by simpa using not_exists.1 hno u)

/-- The row's bits are the mask's, column by column (43 R202). -/
theorem drawByte_row (x y : Nat) (b : Byte) (s : State) (v : Nat) :
    (drawByte x y b s).fb.row v = if v % 32 = y % 32 then s.fb.row v ^^^ rowMask x b else s.fb.row v := by
  refine BitVec.eq_of_getMsbD_eq fun u hu => ?_
  have hpixel := drawByte_pixel x y b s u v
  rw [rowBit_eq_rowMask, Grid.pixel, Grid.pixel, Nat.mod_eq_of_lt hu] at hpixel
  rw [hpixel]
  by_cases hv : v % 32 = y % 32 <;> simp [hv]

/-- A bit 1 of the row is on a lit pixel exactly when the mask and the screen row overlap. -/
theorem exists_pixel_rowBit_iff (g : Grid) (x y : Nat) (b : Byte) :
    (∃ u v, g.pixel u v = true ∧ rowBit x y b u v = true) ↔ g.row y &&& rowMask x b ≠ 0 := by
  simp only [ne_zero_iff_exists_getMsbD, rowBit_eq_rowMask, BitVec.getMsbD_and, Bool.and_eq_true, decide_eq_true_iff]
  refine ⟨fun ⟨u, v, hp, hv, hm⟩ => ⟨u % 64, ?_, hm⟩, fun ⟨u, hp, hm⟩ => ⟨u, y, ?_⟩⟩
  · exact (g.pixel_congr rfl hv).symm.trans hp
  · rw [Grid.pixel, Nat.mod_eq_of_lt (BitVec.lt_of_getMsbD hm)]
    exact ⟨hp, rfl, hm⟩

theorem drawByte_coll_rowMask (x y : Nat) (b : Byte) (s : State) :
    (drawByte x y b s).coll = (s.coll || s.fb.row y &&& rowMask x b != 0) := by
  rw [Bool.eq_iff_iff, drawByte_coll_iff, exists_pixel_rowBit_iff, Bool.or_eq_true, bne_iff_ne]

/-- Settles O51: the mask has the row's bits, and the row collides where the mask overlaps the screen row. -/
theorem rowDrawIsOneExclusiveOr : Obligations.RowDrawIsOneExclusiveOr :=
  fun s x y b => ⟨drawByte_row x y b s, drawByte_coll_rowMask x y b s⟩

/-! ## The rows of a sprite -/

/-- Row r of the sprite at I. -/
def spriteByte (s : State) (r : Nat) : Byte := s.mem.read (effAddr s r).toNat

/-- Whether the first m rows of the sprite at I, drawn at (vx, vy), have a bit 1 on the pixel (u, v). -/
def spriteBit (s : State) (vx vy m u v : Nat) : Bool :=
  (List.range m).any fun r => rowBit vx (vy + r) (spriteByte s r) u v

theorem spriteBit_succ (s : State) (vx vy m u v : Nat) :
    spriteBit s vx vy (m + 1) u v = (spriteBit s vx vy m u v || rowBit vx (vy + m) (spriteByte s m) u v) := by
  simp [spriteBit, List.range_succ]

/-- Among 32 rows no two fall on one row of the screen. -/
theorem spriteBit_eq_false_of_rowBit {s : State} {vx vy m u v : Nat} (hm : m < 32)
    (h : rowBit vx (vy + m) (spriteByte s m) u v = true) : spriteBit s vx vy m u v = false := by
  obtain ⟨_, _, _, hv, _⟩ := rowBit_iff.1 h
  refine List.any_eq_false.2 fun r hr hrow => ?_
  obtain ⟨_, _, _, hv', _⟩ := rowBit_iff.1 hrow
  have hr := List.mem_range.1 hr
  omega

theorem spriteOn_iff_spriteBit {s : State} {x y : Reg} {n : Nibble} {u v : Nat} :
    SpriteOn s x y n u v ↔ spriteBit s (s.reg x).toNat (s.reg y).toNat n.toNat u v = true := by
  simp only [SpriteOn, spriteBit, List.any_eq_true, List.mem_range, rowBit_iff, spriteByte]
  exact exists_congr fun r => exists_and_left

/-- The bytes of the sprite depend on I and memory alone. -/
theorem spriteByte_of_frame {rs : List Reg} {s t : State} (h : Frame { regs := rs, screen := true } s t) (r : Nat) :
    spriteByte t r = spriteByte s r := by
  rw [spriteByte, effAddr_congr (h.i rfl), h.cells _ List.not_mem_nil, spriteByte]

theorem drawRows_frame_of_ok {c : Touch} (hc : c.screen = true) {vx vy : Nat} {rs : List Nat} {s t : State}
    (h : drawRows vx vy rs s = .ok t) : Frame c s t := by
  have hframe := drawRows_frame s hc vx vy rs
  rwa [h] at hframe

theorem drawByte_repaint (x y : Nat) (b : Byte) (s : State) : (drawByte x y b s).repaint = true := rfl

theorem drawRows_cons_of_lt {s : State} {r : Nat} (h : (effAddr s r).toNat < Config.memSize) (vx vy : Nat)
    (rs : List Nat) : drawRows vx vy (r :: rs) s = drawRows vx vy rs (drawByte vx (vy + r) (spriteByte s r) s) := by
  rw [drawRows, memRead_eq, if_pos h, spriteByte]

theorem drawRows_cons_of_ge {s : State} {r : Nat} (h : Config.memSize ≤ (effAddr s r).toNat) (vx vy : Nat)
    (rs : List Nat) : drawRows vx vy (r :: rs) s = .error (effAddr s r, s) := by
  rw [drawRows, memRead_eq, if_neg (Nat.not_lt.2 h)]

theorem drawRows_append {vx vy : Nat} {rs : List Nat} {s t : State} (h : drawRows vx vy rs s = .ok t) (qs : List Nat) :
    drawRows vx vy (rs ++ qs) s = drawRows vx vy qs t := by
  induction rs generalizing s with
  | nil => cases h; rfl
  | cons r rs ih =>
    rw [List.cons_append]
    rcases Nat.lt_or_ge (effAddr s r).toNat Config.memSize with hr | hr
    · rw [drawRows_cons_of_lt hr] at h ⊢
      exact ih h
    · rw [drawRows_cons_of_ge hr] at h
      cases h

/-- `t` is `s` with the first m rows of the sprite at I drawn at (vx, vy). -/
structure RowsDrawn (vx vy m : Nat) (s t : State) : Prop where
  pixel : ∀ u v, t.fb.pixel u v = (s.fb.pixel u v ^^ spriteBit s vx vy m u v)
  coll : t.coll = true ↔ s.coll = true ∨ ∃ u v, s.fb.pixel u v = true ∧ spriteBit s vx vy m u v = true
  repaint : t.repaint = true ↔ s.repaint = true ∨ m ≠ 0

theorem RowsDrawn.zero (vx vy : Nat) (s : State) : RowsDrawn vx vy 0 s s where
  pixel u v := by simp [spriteBit]
  coll := by simp [spriteBit]
  repaint := by simp

/-- One more row: where it has a bit 1 the rows before it have none, so the pixel there is still the old one. -/
theorem RowsDrawn.succ {vx vy m : Nat} {s t : State} (h : RowsDrawn vx vy m s t) (hm : m < 32) :
    RowsDrawn vx vy (m + 1) s (drawByte vx (vy + m) (spriteByte s m) t) where
  pixel u v := by
    rw [drawByte_pixel, h.pixel, spriteBit_succ]
    cases hrow : rowBit vx (vy + m) (spriteByte s m) u v with
    | false => simp
    | true => simp [spriteBit_eq_false_of_rowBit hm hrow]
  coll := by
    have hnew (u v : Nat) : (t.fb.pixel u v = true ∧ rowBit vx (vy + m) (spriteByte s m) u v = true) ↔
        (s.fb.pixel u v = true ∧ rowBit vx (vy + m) (spriteByte s m) u v = true) :=
      and_congr_left fun hrow => by rw [h.pixel, spriteBit_eq_false_of_rowBit hm hrow, Bool.xor_false]
    simp only [drawByte_coll_iff, h.coll, hnew, spriteBit_succ, Bool.or_eq_true, and_or_left, exists_or, or_assoc]
  repaint := by simp [drawByte_repaint]

/-- Rows that all exist are drawn. -/
theorem drawRows_range {s : State} {m : Nat} (hs : InRange s m) (hm : m ≤ 32) (vx vy : Nat) :
    ∃ t, drawRows vx vy (List.range m) s = .ok t ∧ RowsDrawn vx vy m s t := by
  induction m with
  | zero => exact ⟨s, rfl, .zero vx vy s⟩
  | succ m ih =>
    obtain ⟨t, ht, hdrawn⟩ := ih (fun k hk => hs k (by omega)) (by omega)
    have hframe : Frame { screen := true } s t := drawRows_frame_of_ok rfl ht
    have haddr : (effAddr t m).toNat < Config.memSize := effAddr_congr (hframe.i rfl) m ▸ hs m (by omega)
    refine ⟨_, ?_, hdrawn.succ hm⟩
    rw [List.range_succ, drawRows_append ht, drawRows_cons_of_lt haddr, spriteByte_of_frame hframe]
    rfl

/-! ## A whole draw -/

/-- The rows of a draw, COLL cleared before them (43 R203). -/
theorem execDrwVxVyN_of_ok {s u : State} {x y : Reg} {n : Nibble}
    (h : drawRows (s.reg x).toNat (s.reg y).toNat (List.range n.toNat) (s.withColl false) = .ok u) :
    exec (.drwVxVyN x y n) s = .next (u.setReg vf (flagByte u.coll)) := by
  simp only [exec, execDrwVxVyN, h]

theorem execDrwVxVyN_of_error {s u : State} {x y : Reg} {n : Nibble} {a : Word}
    (h : drawRows (s.reg x).toNat (s.reg y).toNat (List.range n.toNat) (s.withColl false) = .error (a, u)) :
    exec (.drwVxVyN x y n) s = .next (raise .addressOutOfRange a u) := by
  simp only [exec, execDrwVxVyN, h, finish]

/-- Settles O48: the rows exist, so they are drawn one by one, and COLL then goes to VF. -/
theorem drawTurnsOverTheSpritePixels : Obligations.DrawTurnsOverTheSpritePixels := by
  intro s x y n hs
  obtain ⟨u, hu, hdrawn⟩ := drawRows_range (s := s.withColl false) hs (by omega) (s.reg x).toNat (s.reg y).toNat
  have hon (a b : Nat) :
      spriteBit (s.withColl false) (s.reg x).toNat (s.reg y).toNat n.toNat a b = true ↔ SpriteOn s x y n a b :=
    spriteOn_iff_spriteBit.symm
  refine ⟨_, execDrwVxVyN_of_ok hu, fun a b => ?_, ?_, ?_, ?_, ?_⟩
  · rw [State.setReg_fb, hdrawn.pixel, ← hon, xor_iff_not_iff, ← Bool.eq_iff_iff]
    exact Bool.xor_iff_ne
  · rw [State.setReg_coll, hdrawn.coll]
    simp [hon]
  · rw [State.reg_setReg_self, flagByte_toNat, State.setReg_coll]
    cases u.coll <;> rfl
  · rw [State.setReg_repaint, hdrawn.repaint, Ne, Ne, ← BitVec.toNat_inj]
    rfl
  · have hcoll : Frame { regs := [vf], screen := true } s (s.withColl false) := screen_frame s rfl s.fb false s.repaint
    exact (hcoll.trans (drawRows_frame_of_ok rfl hu)).trans (setReg_frame u (List.mem_singleton_self vf) _)

/-- The coordinates are not in VF, so a draw leaves its sprite where it is. -/
theorem spriteOn_of_frame {s t : State} {x y : Reg} {n : Nibble} (h : Frame { regs := [vf], screen := true } s t)
    (hx : x ≠ vf) (hy : y ≠ vf) (u v : Nat) : SpriteOn t x y n u v ↔ SpriteOn s x y n u v := by
  rw [spriteOn_iff_spriteBit, spriteOn_iff_spriteBit, h.regs x (by simpa using hx), h.regs y (by simpa using hy)]
  simp only [spriteBit, spriteByte_of_frame h]

/-- Settles O49: an exclusive or with the same bits twice; on a dark screen the first draw lights the sprite's pixels alone. -/
theorem drawingTwiceRestoresTheScreen : Obligations.DrawingTwiceRestoresTheScreen := by
  intro s x y n hx hy hs
  obtain ⟨t, ht, htPixel, -, -, -, htFrame⟩ := drawTurnsOverTheSpritePixels s x y n hs
  have hst : InRange t n.toNat := fun k hk => effAddr_congr (htFrame.i rfl) k ▸ hs k hk
  obtain ⟨u, hu, huPixel, huColl, huVf, -, -⟩ := drawTurnsOverTheSpritePixels t x y n hst
  have hon := spriteOn_of_frame (n := n) htFrame hx hy
  refine ⟨t, u, ht, hu, Grid.ext_pixel fun a b _ _ => ?_, fun hdark => ?_⟩
  · rw [Bool.eq_iff_iff, huPixel, htPixel, hon]
    simp only [xor_iff_not_iff]
    tauto
  · have hvf : u.reg vf = 1 ↔ u.coll = true := by
      rw [← BitVec.toNat_inj, huVf]
      cases u.coll <;> decide
    have hlit (a b : Nat) : t.fb.pixel a b = true ↔ SpriteOn s x y n a b := by
      rw [htPixel, hdark]
      simp
    simp only [hvf, huColl, hlit, hon, and_self]

theorem range_eq_append_cons {m n : Nat} (h : m < n) : ∃ rs, List.range n = List.range m ++ m :: rs := by
  obtain ⟨k, rfl⟩ := Nat.exists_eq_add_of_lt h
  exact ⟨_, by rw [Nat.add_assoc, List.range_add, List.range_succ_eq_map, List.map_cons, Nat.add_zero]⟩

/-- Settles O50: the rows before row m are drawn, and the address of row m is the error. -/
theorem drawOutsideMemoryHaltsAfterItsRows : Obligations.DrawOutsideMemoryHaltsAfterItsRows := by
  intro s x y n m hm ⟨hs, hout⟩
  obtain ⟨u, hu, -⟩ := drawRows_range (s := s.withColl false) hs (by omega) (s.reg x).toNat (s.reg y).toNat
  have hframe : Frame { screen := true } (s.withColl false) u := drawRows_frame_of_ok rfl hu
  have haddr : effAddr u m = effAddr s m := effAddr_congr (hframe.i rfl) m
  obtain ⟨rs, hrows⟩ := range_eq_append_cons hm
  refine ⟨u, hu, fun r => hframe.regs r List.not_mem_nil, execDrwVxVyN_of_error ?_⟩
  rw [hrows, drawRows_append hu, drawRows_cons_of_ge (haddr ▸ hout), haddr]

end Sys2Proof.Machine

/-! SUPPORT. Proofs for the family 44_memory_index: the index arithmetic, and the block accesses through I, inside memory and past
its end. -/

namespace Sys2Proof.Machine

/-! ## Index arithmetic -/

/-- Settles O46: ADD I is an addition of words; 255 × 5 fits in a word, so LD F does not wrap. -/
theorem indexArithmeticWrapsInSixteenBits : Obligations.IndexArithmeticWrapsInSixteenBits := by
  intro s x
  refine ⟨⟨_, rfl, ?_, withI_frame s rfl _⟩, ⟨_, rfl, ?_, withI_frame s rfl _⟩⟩
  · rw [State.withI_i, BitVec.toNat_add, zextByte_toNat]
  · have hx : (s.reg x).toNat < 256 := (s.reg x).isLt
    rw [State.withI_i, BitVec.toNat_ofNat]
    exact Nat.mod_eq_of_lt (show (s.reg x).toNat * 5 < 65536 by omega)

/-! ## Addresses of an access that stays inside memory -/

/-- Bytes that all exist are consecutive: an address that wrapped would follow one past the end of memory. -/
theorem InRange.effAddr_toNat {s : State} {n k : Nat} (h : InRange s n) (hk : k < n) :
    (effAddr s k).toNat = s.i.toNat + k := by
  rw [Machine.effAddr_toNat]
  refine Nat.mod_eq_of_lt ?_
  induction k with
  | zero => exact s.i.isLt
  | succ k ih =>
    have hk' : k < n := Nat.lt_of_succ_lt hk
    have hprev : (effAddr s k).toNat < 4096 := h k hk'
    rw [Machine.effAddr_toNat, Nat.mod_eq_of_lt (ih hk')] at hprev
    omega

theorem InRange.le_memSize {s : State} {n : Nat} (h : InRange s n) (hn : 0 < n) : s.i.toNat + n ≤ Config.memSize := by
  have hlast := h (n - 1) (by omega)
  rw [h.effAddr_toNat (by omega)] at hlast
  omega

/-! ## Stores -/

theorem storeBytes_cons_of_lt {s : State} {k : Nat} (h : (effAddr s k).toNat < Config.memSize) (b : Byte)
    (bs : List Byte) :
    storeBytes k (b :: bs) s = storeBytes (k + 1) bs (s.withMem (s.mem.write (effAddr s k).toNat b)) := by
  rw [storeBytes, memWrite_eq, if_pos h]

theorem storeBytes_cons_of_ge {s : State} {k : Nat} (h : Config.memSize ≤ (effAddr s k).toNat) (b : Byte)
    (bs : List Byte) : storeBytes k (b :: bs) s = .error (effAddr s k, s) := by
  rw [storeBytes, memWrite_eq, if_neg (Nat.not_lt.2 h)]

theorem storeBytes_append {bs : List Byte} {k : Nat} {s t : State} (h : storeBytes k bs s = .ok t) (cs : List Byte) :
    storeBytes k (bs ++ cs) s = storeBytes (k + bs.length) cs t := by
  induction bs generalizing k s with
  | nil => cases h; rfl
  | cons b bs ih =>
    rw [List.cons_append]
    rcases Nat.lt_or_ge (effAddr s k).toNat Config.memSize with hk | hk
    · rw [storeBytes_cons_of_lt hk] at h ⊢
      rw [ih h, List.length_cons, Nat.add_assoc, Nat.add_comm 1]
    · rw [storeBytes_cons_of_ge hk] at h
      cases h

/-- Bytes that all exist are stored as one copy at their first address. -/
theorem storeBytes_of_inRange {bs : List Byte} {k : Nat} {s : State} (h : InRange s (k + bs.length)) :
    storeBytes k bs s = .ok (s.withMem (s.mem.writeAll (s.i.toNat + k) bs)) := by
  induction bs generalizing k s with
  | nil => rfl
  | cons b bs ih =>
    have hk : k < k + (b :: bs).length := by simp
    rw [storeBytes_cons_of_lt (h k hk), h.effAddr_toNat hk]
    exact ih fun j hj => h j (by rw [List.length_cons]; omega)

/-- An instruction that stores a block at I inside memory puts byte j of it at I + j and touches no other cell. -/
theorem exec_stores_block {i : Instr} {s : State} {bs : List Byte} (hi : exec i s = finish (storeBytes 0 bs s))
    (hs : s.mem.wf) (hr : InRange s bs.length) :
    ∃ t, exec i s = .next t ∧ (∀ k (hk : k < bs.length), t.mem.read (effAddr s k).toNat = bs[k]'hk) ∧
      Frame { cells := accessCells s bs.length } s t := by
  have hstore : storeBytes 0 bs s = .ok (s.withMem (s.mem.writeAll s.i.toNat bs)) :=
    storeBytes_of_inRange (by rwa [Nat.zero_add])
  have hframe := storeBytes_frame_accessCells (c := { cells := accessCells s bs.length }) hs rfl
  rw [hstore] at hi hframe
  refine ⟨_, hi, fun k hk => ?_, hframe⟩
  have hend := hr.le_memSize (by omega)
  rw [State.withMem_mem, hr.effAddr_toNat hk, Memory.read_writeAll hend hs, if_pos (by omega), Nat.add_sub_cancel_left]
  exact (List.getElem_eq_getD 0).symm

/-- The three digits make the byte again. -/
theorem bcdDigits_value (v : Byte) : (BitVec.ofNat 8 (v.toNat / 100)).toNat * 100 +
    (BitVec.ofNat 8 (v.toNat / 10 % 10)).toNat * 10 + (BitVec.ofNat 8 (v.toNat % 10)).toNat = v.toNat := by
  have hv : v.toNat < 256 := v.isLt
  simp only [BitVec.toNat_ofNat]
  omega

/-- A remainder by 10 is one decimal digit. -/
theorem byteOfDigit_le (n : Nat) : (BitVec.ofNat 8 (n % 10)).toNat ≤ 9 := by
  rw [BitVec.toNat_ofNat]
  omega

/-- Settles O52: the block is the list of the three digits. -/
theorem bcdStoresThreeDigits : Obligations.BcdStoresThreeDigits := by
  intro s x hr hs
  obtain ⟨t, ht, hread, hframe⟩ := exec_stores_block (i := .ldBVx x) (bs := bcdDigits (s.reg x)) rfl hs hr
  have hhundreds : t.mem.read (effAddr s 0).toNat = BitVec.ofNat 8 ((s.reg x).toNat / 100) := hread 0 (by simp)
  have htens : t.mem.read (effAddr s 1).toNat = BitVec.ofNat 8 ((s.reg x).toNat / 10 % 10) := hread 1 (by simp)
  have hones : t.mem.read (effAddr s 2).toNat = BitVec.ofNat 8 ((s.reg x).toNat % 10) := hread 2 (by simp)
  refine ⟨t, ht, ?_, ?_, ?_, hframe⟩
  · rw [hhundreds, htens, hones, bcdDigits_value]
  · exact htens ▸ byteOfDigit_le _
  · exact hones ▸ byteOfDigit_le _

theorem getElem_dumpBytes {x : Reg} {s : State} {k : Nat} (hk : k < (dumpBytes x s).length) :
    (dumpBytes x s)[k]'hk = s.reg (regOf k) := by
  simp [dumpBytes, upTo]

/-- Settles O53: the block is the list of the registers 0 to x. -/
theorem dumpStoresTheRegisters : Obligations.DumpStoresTheRegisters := by
  intro s x hr hs
  rw [← dumpBytes_length x s] at hr
  obtain ⟨t, ht, hread, hframe⟩ := exec_stores_block (i := .ldIVx x) rfl hs hr
  have hlen := dumpBytes_length x s
  exact ⟨t, ht, fun k hk => (hread k (by omega)).trans (getElem_dumpBytes _), hlen ▸ hframe⟩

/-! ## Loads -/

theorem loadRegs_cons_of_lt {s : State} {k : Nat} (h : (effAddr s k).toNat < Config.memSize) (ks : List Nat) :
    loadRegs (k :: ks) s = loadRegs ks (s.setReg (regOf k) (s.mem.read (effAddr s k).toNat)) := by
  rw [loadRegs, memRead_eq, if_pos h]

theorem loadRegs_cons_of_ge {s : State} {k : Nat} (h : Config.memSize ≤ (effAddr s k).toNat) (ks : List Nat) :
    loadRegs (k :: ks) s = .error (effAddr s k, s) := by
  rw [loadRegs, memRead_eq, if_neg (Nat.not_lt.2 h)]

theorem loadRegs_append {ks : List Nat} {s t : State} (h : loadRegs ks s = .ok t) (js : List Nat) :
    loadRegs (ks ++ js) s = loadRegs js t := by
  induction ks generalizing s with
  | nil => cases h; rfl
  | cons k ks ih =>
    rw [List.cons_append]
    rcases Nat.lt_or_ge (effAddr s k).toNat Config.memSize with hk | hk
    · rw [loadRegs_cons_of_lt hk] at h ⊢
      exact ih h
    · rw [loadRegs_cons_of_ge hk] at h
      cases h

theorem loadRegs_frame_of_ok {ks : List Nat} {s t : State} (h : loadRegs ks s = .ok t) :
    Frame { regs := ks.map regOf } s t := by
  have hframe := loadRegs_frame (c := { regs := ks.map regOf }) s fun k hk => List.mem_map_of_mem hk
  rwa [h] at hframe

theorem regOf_ne {j k : Nat} (hjk : j < k) (hk : k < 16) : regOf j ≠ regOf k := fun h => by
  have hnum := congrArg BitVec.toNat h
  rw [regOf_toNat (hjk.trans hk), regOf_toNat hk] at hnum
  omega

/-- Registers whose bytes all exist are loaded, each from the memory and the I of before: a load changes neither. -/
theorem loadRegs_range {s : State} {m : Nat} (hs : InRange s m) (hm : m ≤ 16) :
    ∃ t, loadRegs (List.range m) s = .ok t ∧ ∀ k, k < m → t.reg (regOf k) = s.mem.read (effAddr s k).toNat := by
  induction m with
  | zero => exact ⟨s, rfl, fun k hk => absurd hk (Nat.not_lt_zero k)⟩
  | succ m ih =>
    obtain ⟨t, ht, hread⟩ := ih (fun k hk => hs k (by omega)) (by omega)
    have hframe := loadRegs_frame_of_ok ht
    have haddr : effAddr t m = effAddr s m := effAddr_congr (hframe.i rfl) m
    have hload := loadRegs_cons_of_lt (haddr ▸ hs m (Nat.lt_succ_self m)) []
    rw [haddr, hframe.cells _ List.not_mem_nil] at hload
    refine ⟨_, by rw [List.range_succ, loadRegs_append ht, hload, loadRegs], fun k hk => ?_⟩
    rcases Nat.lt_succ_iff_lt_or_eq.1 hk with hlt | rfl
    · rw [State.reg_setReg, if_neg (regOf_ne hlt hm), hread k hlt]
    · exact State.reg_setReg_self t _ _

/-- Settles O54: the registers 0 to x are loaded, and one above x is not among them. -/
theorem loadFillsTheRegisters : Obligations.LoadFillsTheRegisters := by
  intro s x hr
  have hx : x.toNat < 16 := x.isLt
  obtain ⟨t, ht, hread⟩ := loadRegs_range hr hx
  have hframe : Frame { regs := (upTo x).map regOf } s t := loadRegs_frame_of_ok ht
  refine ⟨t, congrArg finish ht, fun k hk => hread k (by omega), fun r hxr => hframe.regs r fun hmem => ?_, hframe⟩
  obtain ⟨k, hk, rfl⟩ := List.mem_map.1 hmem
  have hkx := List.mem_range.1 hk
  rw [BitVec.lt_def, regOf_toNat (by omega)] at hxr
  omega

/-! ## Accesses that leave memory -/

/-- A store loop past the end of memory keeps the bytes before the first that does not exist (60 R265). -/
theorem storeBytes_of_firstOutside {s : State} {m : Nat} (h : FirstOutside s m) {bs : List Byte} (hm : m < bs.length) :
    ∃ u, storeBytes 0 (bs.take m) s = .ok u ∧ storeBytes 0 bs s = .error (effAddr s m, u) := by
  obtain ⟨hin, hout⟩ := h
  have hlen : (bs.take m).length = m := List.length_take_of_le hm.le
  obtain ⟨u, hu, hi⟩ : ∃ u, storeBytes 0 (bs.take m) s = .ok u ∧ u.i = s.i :=
    ⟨_, storeBytes_of_inRange (by rwa [hlen, Nat.zero_add]), rfl⟩
  have haddr : effAddr u m = effAddr s m := effAddr_congr hi m
  have hrest := storeBytes_append hu (bs.drop m)
  rw [List.take_append_drop, hlen, Nat.zero_add, List.drop_eq_getElem_cons hm, storeBytes_cons_of_ge (haddr ▸ hout),
    haddr] at hrest
  exact ⟨u, hu, hrest⟩

/-- A load loop past the end of memory keeps the registers before the first whose byte does not exist (60 R265). -/
theorem loadRegs_of_firstOutside {s : State} {m n : Nat} (h : FirstOutside s m) (hm : m < n) (hn : n ≤ 16) :
    ∃ u, loadRegs (List.range m) s = .ok u ∧ loadRegs (List.range n) s = .error (effAddr s m, u) := by
  obtain ⟨hin, hout⟩ := h
  obtain ⟨u, hu, -⟩ := loadRegs_range hin (by omega)
  have haddr : effAddr u m = effAddr s m := effAddr_congr ((loadRegs_frame_of_ok hu).i rfl) m
  obtain ⟨ks, hks⟩ := range_eq_append_cons hm
  exact ⟨u, hu, by rw [hks, loadRegs_append hu, loadRegs_cons_of_ge (haddr ▸ hout), haddr]⟩

/-- Settles O55: each of the three loops stops at byte m, and its instruction ends with the error of that byte. -/
theorem blockAccessOutsideMemoryHaltsPartWay : Obligations.BlockAccessOutsideMemoryHaltsPartWay := by
  intro s x m h
  refine ⟨fun hm => ?_, fun hm => ?_, fun hm => ?_⟩
  · obtain ⟨u, hu, herr⟩ := storeBytes_of_firstOutside h (bs := bcdDigits (s.reg x)) hm
    exact ⟨u, hu, congrArg finish herr⟩
  · obtain ⟨u, hu, herr⟩ := storeBytes_of_firstOutside h (bs := dumpBytes x s) (by rw [dumpBytes_length]; omega)
    exact ⟨u, hu, congrArg finish herr⟩
  · obtain ⟨u, hu, herr⟩ := loadRegs_of_firstOutside h (Nat.lt_succ_of_le hm) x.isLt
    exact ⟨u, hu, congrArg finish herr⟩

end Sys2Proof.Machine

/-! SUPPORT. Proofs for the family 45_timers_keys: the start of a key wait and its end by a key. -/

namespace Sys2Proof.Machine

/-- Settles O56: the instruction writes KEYWAKE and RUN alone. -/
theorem keyWaitBegins : Obligations.KeyWaitBegins :=
  fun s x => ⟨_, rfl, rfl, rfl, wait_frame s rfl false (.waitKey x)⟩

theorem resume_of_key {x : Reg} {s : State} (hstop : s.stopReq = false) (hwake : s.keyWake = true) :
    resume x s = takeKey x s := by
  rw [resume, hstop, hwake]

/-- A key number is 4 bits wide, so V[x] holds it unchanged. -/
theorem takeKey_reg_self_toNat (x : Reg) (s : State) : ((takeKey x s).reg x).toNat = s.lastKey.toNat := by
  rw [takeKey_reg, if_pos rfl, BitVec.toNat_setWidth_of_le (by decide)]

/-- A taken key counts as one cycle: below REFRESH cycles the timers and a pending repaint stay. -/
theorem takeKey_counts (x : Reg) {s : State} (h : s.cyc + 1 < s.refresh) :
    (takeKey x s).cyc = s.cyc + 1 ∧ (takeKey x s).dt = s.dt ∧ (takeKey x s).st = s.st ∧
      (takeKey x s).repaint = s.repaint := by
  simp [takeKey, endOfCycle_eq, Nat.not_le.2 h]

/-- A taken key that completes a period ticks. -/
theorem takeKey_ticks (x : Reg) {s : State} (h : s.refresh ≤ s.cyc + 1) :
    (takeKey x s).cyc = 0 ∧ (takeKey x s).dt = countDown s.dt ∧ (takeKey x s).st = countDown s.st ∧
      (takeKey x s).repaint = false := by
  simp [takeKey, endOfCycle_eq, h]

/-- Settles O13: the woken wait takes the key, and the end of its cycle either counts or ticks. -/
theorem keyWaitEndsWithTheLastKey : Obligations.KeyWaitEndsWithTheLastKey := by
  intro s x ht hr hwake hstop
  rw [step_waitKey ht hr, resume_of_key (s := takeTurn s) hstop hwake]
  refine ⟨_, rfl, takeKey_run x _, takeKey_reg_self_toNat x _, fun r hrx => ?_, endOfCycle_pc _, endOfCycle_i _,
    endOfCycle_sp _, endOfCycle_stack _, endOfCycle_mem _, endOfCycle_fb _, endOfCycle_coll _, endOfCycle_keys _,
    endOfCycle_lastKey _, takeKey_counts x (s := takeTurn s), takeKey_ticks x (s := takeTurn s)⟩
  rw [takeKey_reg, if_neg hrx, takeTurn_reg]

end Sys2Proof.Machine

/-! SUPPORT. Proofs for the family 60_exceptions: the self-jump that ends a program, the halts of a cycle and of an instruction, the
cleanup, the events of the host, and a restore of a snapshot. -/

namespace Sys2Proof.Machine

/-! ## A jump to its own address -/

/-- The states a self-jump can reach: DT and ST count down, CYC and the outputs move, REPAINT and SAVEREQ are cleared at most, and
nothing else changes (60 R294). -/
inductive State.Spins (s : State) : State → Prop where
  | intro {d e : Byte} {n : Nat} {r q : Bool} {o : List Output} (hd : d.toNat ≤ s.dt.toNat) (he : e.toNat ≤ s.st.toNat)
      (hr : r = true → s.repaint = true) (hq : q = true → s.saveReq = true) :
      s.Spins { s with dt := d, st := e, cyc := n, repaint := r, saveReq := q, emitted := o }

theorem State.Spins.refl (s : State) : s.Spins s := .intro le_rfl le_rfl id id

theorem State.Spins.trans {s t u : State} (hst : s.Spins t) (htu : t.Spins u) : s.Spins u := by
  obtain ⟨hd, he, hr, hq⟩ := hst
  obtain ⟨hd', he', hr', hq'⟩ := htu
  exact .intro (hd'.trans hd) (he'.trans he) (hr ∘ hr') (hq ∘ hq')

theorem countDown_le (t : Byte) : (countDown t).toNat ≤ t.toNat := by
  rw [countDown_toNat]
  exact Nat.sub_le _ _

theorem serveSave_spins (s : State) : s.Spins (serveSave s) := by
  unfold serveSave
  split
  · exact .intro (r := s.repaint) (q := false) le_rfl le_rfl id nofun
  · exact .refl s

theorem endOfCycle_spins (s : State) : s.Spins (endOfCycle s) := by
  obtain ⟨hcount, htick, -⟩ := endOfCycleTicksEveryRefreshCycles s
  rcases Nat.lt_or_ge (s.cyc + 1) s.refresh with h | h
  · rw [hcount h]
    exact .intro (r := s.repaint) (q := s.saveReq) le_rfl le_rfl id id
  · rw [htick h]
    exact .intro (r := false) (q := s.saveReq) (countDown_le _) (countDown_le _) nofun id

/-- What a self-jump reaches is the same self-jump. -/
theorem State.SelfJump.of_spins {s t : State} (hs : s.SelfJump) (h : s.Spins t) : t.SelfJump := by
  cases h
  exact { hs with }

theorem State.SelfJump.fetching {s : State} (hs : s.SelfJump) : s.Fetching where
  turn := by rw [State.turn, hs.noEvents]; rfl
  running := hs.running
  noStop := hs.noStop

/-- The word at PC is a JP, whose address is PC (41 R152). -/
theorem State.SelfJump.decodeWord_wordAtPc {s : State} (hs : s.SelfJump) :
    ∃ nnn, decodeWord (wordAtPc s) = .ok (.jpAddr nnn) ∧ zextAddr nnn = s.pc := by
  have hpc := hs.fetchable
  have hnnn : (s.pc.setWidth 12).toNat = s.pc.toNat := by rw [BitVec.toNat_setWidth]; omega
  have hword : wordAtPc s = encode (.jpAddr (s.pc.setWidth 12)) := BitVec.eq_of_toNat_eq (by
    rw [hs.jump, encode, wordA_toNat, hnnn]
    rfl)
  exact ⟨_, hword ▸ decodeWord_encode rfl, BitVec.eq_of_toNat_eq (by rw [zextAddr_toNat, hnnn])⟩

/-- With no event to come, taking the core's turn changes nothing. -/
theorem takeTurn_of_noEvents {s : State} (h : s.schedule = []) : takeTurn s = s := by
  have htail : s.schedule.tail = s.schedule := by rw [h]; rfl
  rw [takeTurn, htail]
  rfl

/-- A self-jump writes the PC it found, so its cycle is the save and the end of the cycle. -/
theorem State.SelfJump.step_eq {s : State} (hs : s.SelfJump) : step s = .next (endOfCycle (serveSave s)) := by
  obtain ⟨nnn, hd, hnnn⟩ := hs.decodeWord_wordAtPc
  have hsame : ((serveSave s).withPc (s.pc + 2)).withPc (zextAddr nnn) = serveSave s := by
    rw [hnnn, ← serveSave_pc s]
    rfl
  have hrun : (serveSave s).run = .running := (serveSave_run s).trans hs.running
  calc
    step s = executeCycle (.jpAddr nnn) ((atBoundary s).withPc (s.pc + 2)) :=
      (step_fetching hs.fetching).trans (fetchExecute_of_decode (fetch_atBoundary hs.fetchable) hd)
    _ = .next (afterExecute (((atBoundary s).withPc (s.pc + 2)).withPc (zextAddr nnn))) := rfl
    _ = .next (endOfCycle (serveSave s)) := by
      rw [atBoundary, takeTurn_of_noEvents hs.noEvents, hsame, afterExecute, if_pos hrun]

theorem core_run_succ {s t : State} (h : step s = .next t) (k : Nat) : core.run (k + 1) s = core.run k t := by
  have hstep : core.step s = .next t := h
  simp only [Host.Core.run, hstep]

theorem State.SelfJump.core_run {s : State} (hs : s.SelfJump) (k : Nat) : ∃ t, core.run k s = .next t ∧ s.Spins t := by
  induction k generalizing s with
  | zero => exact ⟨s, rfl, .refl s⟩
  | succ k ih =>
    have hcycle : s.Spins (endOfCycle (serveSave s)) := (serveSave_spins s).trans (endOfCycle_spins _)
    obtain ⟨t, hrun, ht⟩ := ih (hs.of_spins hcycle)
    exact ⟨t, (core_run_succ hs.step_eq k).trans hrun, hcycle.trans ht⟩

/-- Settles O22: each cycle of a self-jump serves a save and ends, and both leave it a self-jump; by induction on the steps. -/
theorem selfJumpGoesOnForEver : Obligations.SelfJumpGoesOnForEver := by
  intro s k hs
  obtain ⟨t, hrun, hspins⟩ := hs.core_run k
  refine ⟨t, hrun, ?_⟩
  obtain ⟨hd, he, hr, hq⟩ := hspins
  exact ⟨rfl, rfl, rfl, rfl, rfl, rfl, rfl, rfl, hs.running, rfl, rfl, rfl, rfl, rfl, rfl, rfl, rfl, rfl, rfl, rfl,
    hr, hq, hd, he⟩

/-! ## Halts of a cycle and of an instruction -/

/-- A fetched word that no row matches ends the run (40 R124, 60 R262). -/
theorem fetchExecute_of_decode_error {s t : State} {w : Word} {e : DecodeError} (hf : fetch s = .ok (w, t))
    (hd : decodeWord w = .error e) : fetchExecute s = .next (raise .unknownInstruction w t) := by
  simp only [fetchExecute, hf, hd]

/-- Settles O9: the word is fetched from the boundary state, and the halt follows the advance of PC. -/
theorem unknownWordHaltsTheRun : Obligations.UnknownWordHaltsTheRun := by
  intro s e hs hpc hd
  exact ⟨_, (step_fetching hs).trans (fetchExecute_of_decode_error (fetch_atBoundary hpc) hd), raise_haltedWith _ _ _, rfl,
    (withPc_frame _ rfl _).trans (raise_frame _ rfl _ _)⟩

theorem execRet_of_gt {s : State} (h : 16 < s.sp) : execRet s = .fault .stackPointerOutOfRange := by
  rcases pop_cases s with ⟨h0, _⟩ | ⟨_, hlt, _⟩ | ⟨_, hp⟩
  · omega
  · omega
  · rw [execRet, hp]

/-- With SP at most 16 every instruction has a next state: a pop then finds a slot or an empty stack. -/
theorem exists_exec_eq_next (i : Instr) {s : State} (h : s.sp ≤ 16) : ∃ t, exec i s = .next t := by
  cases i with
  | ret =>
    by_cases h0 : s.sp = 0
    · exact ⟨_, execRet_empty h0⟩
    · exact ⟨_, execRet_of_lt h0 (by omega)⟩
  | callAddr nnn =>
    by_cases hlt : s.sp < 16
    · exact ⟨_, execCallAddr_of_lt hlt nnn⟩
    · exact ⟨_, execCallAddr_of_ge (Nat.le_of_not_lt hlt) nnn⟩
  | drwVxVyN x y n =>
    cases hrows : drawRows (s.reg x).toNat (s.reg y).toNat (List.range n.toNat) (s.withColl false) with
    | ok u => exact ⟨_, execDrwVxVyN_of_ok hrows⟩
    | error e => exact ⟨_, execDrwVxVyN_of_error hrows⟩
  | ldBVx | ldIVx | ldVxI => exact ⟨_, finish_eq _⟩
  | _ => exact ⟨_, rfl⟩

/-- Accesses that stop do so at an address above 0x0FFF (20 R65). -/
def Access.StopsOutside (r : Access) : Prop := ∀ a u, r = .error (a, u) → Config.memSize ≤ a.toNat

theorem stopsOutside_ok (s : State) : Access.StopsOutside (.ok s) := by
  intro a u h
  cases h

theorem stopsOutside_error {a : Word} (h : Config.memSize ≤ a.toNat) (s : State) :
    Access.StopsOutside (.error (a, s)) := by
  intro b u hb
  cases hb
  exact h

theorem storeBytes_stopsOutside (k : Nat) (bs : List Byte) (s : State) : (storeBytes k bs s).StopsOutside := by
  induction bs generalizing k s with
  | nil => exact stopsOutside_ok s
  | cons b bs ih =>
    rcases Nat.lt_or_ge (effAddr s k).toNat Config.memSize with h | h
    · rw [storeBytes_cons_of_lt h]
      exact ih _ _
    · rw [storeBytes_cons_of_ge h]
      exact stopsOutside_error h s

theorem loadRegs_stopsOutside (ks : List Nat) (s : State) : (loadRegs ks s).StopsOutside := by
  induction ks generalizing s with
  | nil => exact stopsOutside_ok s
  | cons k ks ih =>
    rcases Nat.lt_or_ge (effAddr s k).toNat Config.memSize with h | h
    · rw [loadRegs_cons_of_lt h]
      exact ih _
    · rw [loadRegs_cons_of_ge h]
      exact stopsOutside_error h s

theorem drawRows_stopsOutside (vx vy : Nat) (rs : List Nat) (s : State) : (drawRows vx vy rs s).StopsOutside := by
  induction rs generalizing s with
  | nil => exact stopsOutside_ok s
  | cons r rs ih =>
    rcases Nat.lt_or_ge (effAddr s r).toNat Config.memSize with h | h
    · rw [drawRows_cons_of_lt h]
      exact ih _
    · rw [drawRows_cons_of_ge h]
      exact stopsOutside_error h s

/-- The run ended for an address above 0x0FFF, which ERRWORD holds. -/
def HaltedOutside (t : State) : Prop := t.err = .addressOutOfRange ∧ 0x0FFF < t.errWord.toNat

/-- An instruction that halts after its accesses halts for the address at which they stopped. -/
theorem finish_haltedOutside {r : Access} {s t : State} (hr : SameControl s r.after) (hout : r.StopsOutside)
    (hs : s.run ≠ .halted) (h : finish r = .next t) (ht : t.run = .halted) : HaltedOutside t := by
  rcases r with ⟨a, u⟩ | u <;> cases h
  · exact ⟨rfl, hout a u rfl⟩
  · exact absurd (hr.run.symm.trans ht) hs

theorem execDrwVxVyN_haltedOutside {x y : Reg} {n : Nibble} {s t : State} (hs : s.run ≠ .halted)
    (h : exec (.drwVxVyN x y n) s = .next t) (ht : t.run = .halted) : HaltedOutside t := by
  have hsame := drawRows_sameControl (s.reg x).toNat (s.reg y).toNat (List.range n.toNat) (s.withColl false)
  have hout := drawRows_stopsOutside (s.reg x).toNat (s.reg y).toNat (List.range n.toNat) (s.withColl false)
  cases hrows : drawRows (s.reg x).toNat (s.reg y).toNat (List.range n.toNat) (s.withColl false) with
  | ok u =>
    rw [execDrwVxVyN_of_ok hrows] at h
    cases h
    rw [hrows] at hsame
    exact absurd (hsame.run.symm.trans ht) hs
  | error e =>
    rw [execDrwVxVyN_of_error hrows] at h
    rw [hrows] at hsame hout
    exact finish_haltedOutside hsame hout hs h ht

@[simp] theorem skipIf_run (c : Bool) (s : State) : (skipIf c s).run = s.run := by
  rw [skipIf_eq]
  rfl

theorem execCallAddr_halted {nnn : Addr12} {s t : State} (hs : s.run ≠ .halted) (h : execCallAddr nnn s = .next t)
    (ht : t.run = .halted) : 16 ≤ s.sp ∧ t.err = .stackOverflow := by
  rcases Nat.lt_or_ge s.sp 16 with hlt | hge
  · rw [execCallAddr_of_lt hlt] at h
    cases h
    exact absurd ht hs
  · rw [execCallAddr_of_ge hge] at h
    cases h
    exact ⟨hge, rfl⟩

theorem execRet_halted {s t : State} (hs : s.run ≠ .halted) (h : execRet s = .next t) (ht : t.run = .halted) :
    s.sp = 0 ∧ t.err = .stackUnderflow := by
  rcases pop_cases s with ⟨h0, _⟩ | ⟨h0, hlt, _⟩ | ⟨hgt, _⟩
  · rw [execRet_empty h0] at h
    cases h
    exact ⟨h0, rfl⟩
  · rw [execRet_of_lt h0 hlt] at h
    cases h
    exact absurd ht hs
  · rw [execRet_of_gt hgt] at h
    cases h

/-- Settles O58: RET, CALL and the four memory shapes halt as their own lemmas say; the others leave RUN or begin a wait. -/
theorem instructionsHaltOnlyAsListed : Obligations.InstructionsHaltOnlyAsListed := by
  refine fun i s => ⟨exists_exec_eq_next i, execRet_of_gt, fun t h hs ht => ?_⟩
  cases i with
  | callAddr nnn => exact .inl ⟨nnn, rfl, execCallAddr_halted hs h ht⟩
  | ret => exact .inr (.inl ⟨rfl, execRet_halted hs h ht⟩)
  | ldBVx x =>
    exact .inr (.inr ⟨⟨x, .inl rfl⟩,
      finish_haltedOutside (storeBytes_sameControl _ _ s) (storeBytes_stopsOutside _ _ s) hs h ht⟩)
  | ldIVx x =>
    exact .inr (.inr ⟨⟨x, .inr (.inl rfl)⟩,
      finish_haltedOutside (storeBytes_sameControl _ _ s) (storeBytes_stopsOutside _ _ s) hs h ht⟩)
  | ldVxI x =>
    exact .inr (.inr ⟨⟨x, .inr (.inr (.inl rfl))⟩,
      finish_haltedOutside (loadRegs_sameControl _ s) (loadRegs_stopsOutside _ s) hs h ht⟩)
  | drwVxVyN x y n =>
    exact .inr (.inr ⟨⟨x, .inr (.inr (.inr ⟨y, n, rfl⟩))⟩, execDrwVxVyN_haltedOutside hs h ht⟩)
  | seVxByte | sneVxByte | seVxVy | sneVxVy | skpVx | sknpVx =>
    cases h
    exact absurd ((skipIf_run _ s).symm.trans ht) hs
  | ldVxK => cases h; cases ht
  | _ => cases h; exact absurd ht hs

/-! ## The core's turn -/

theorem executeCycle_of_next {i : Instr} {s t : State} (h : exec i s = .next t) :
    executeCycle i s = .next (afterExecute t) := by
  rw [executeCycle, h]

/-- A cycle from a state with SP at most 16 has a next state, a halt included. -/
theorem exists_fetchExecute_eq_next {s : State} (h : s.sp ≤ 16) : ∃ t, fetchExecute s = .next t := by
  rcases fetchExecute_cases s with ⟨a, _, hr⟩ | ⟨w, e, _, _, hr⟩ | ⟨w, i, _, _, hr⟩
  · exact ⟨_, hr⟩
  · exact ⟨_, hr⟩
  · obtain ⟨t, ht⟩ := exists_exec_eq_next i (s := s.withPc (s.pc + 2)) h
    exact ⟨_, hr.trans (executeCycle_of_next ht)⟩

theorem exists_cycle_eq_next {s : State} (h : s.sp ≤ 16) : ∃ t, cycle s = .next t := by
  unfold cycle
  split
  · exact ⟨_, rfl⟩
  · exact exists_fetchExecute_eq_next ((serveSave_sp s).trans_le h)

/-- Settles O21: only a cycle can fault, and it does not with SP at most 16. -/
theorem coreStepAlwaysHasANextState : Obligations.CoreStepAlwaysHasANextState := by
  intro s hs hturn
  rw [step_core hturn]
  cases hr : (takeTurn s).run with
  | idle => exact ⟨_, coreStep_idle hr⟩
  | running => rw [coreStep_running hr]; exact exists_cycle_eq_next hs.spLe
  | waitKey x => exact ⟨_, coreStep_waitKey hr⟩
  | halted => exact ⟨_, coreStep_halted hr⟩

/-! ## The cleanup -/

/-- A reset writes every element but RATE, REFRESH, ERR and ERRWORD as a new machine has it (70 R300, R301). -/
theorem resetMachine_atReset (s : State) : (resetMachine s).AtReset := { reset_atReset with }

/-- Settles O16: both steps are `Reset`, and the cleanup also emits the report. -/
theorem haltedMachineIsCleanedUp : Obligations.HaltedMachineIsCleanedUp := by
  refine ⟨fun s ht hr => ?_, fun s ht hr => ?_⟩
  · exact ⟨_, step_halted ht hr, { resetMachine_atReset (takeTurn s) with }, rfl, rfl, rfl, rfl, rfl⟩
  · exact ⟨_, step_reset ht hr, resetMachine_atReset _, rfl, rfl, rfl, rfl, rfl⟩

/-! ## The keys -/

theorem getLsbD_keyBit {j k : Nat} (hj : j < 16) : (keyBit k).getLsbD j = decide (j = k) := by
  rw [keyBit, BitVec.getLsbD_shiftLeft, BitVec.getLsbD_one, Bool.eq_iff_iff]
  simp only [Bool.and_eq_true, decide_eq_true_iff, Bool.not_eq_true', decide_eq_false_iff_not]
  omega

theorem Run.isWait_iff {r : Run} : r.isWait = true ↔ ∃ x, r = .waitKey x := by
  cases r <;> simp [Run.isWait]

/-- Settles O23: the bits of KEYS are masked with the complement of one key's bit. -/
theorem keyReleaseClearsItsBitAlone : Obligations.KeyReleaseClearsItsBitAlone := by
  intro s k ht hk
  refine ⟨_, (step_host ht).trans (if_pos hk), fun j hj => ?_, rfl, rfl, rfl, rfl⟩
  have hbit : (keyUp k (takeTurn s)).keys.getLsbD j = (s.keys.getLsbD j && !decide (j = k)) := by
    rw [keyUp, State.withKeys_keys, BitVec.getLsbD_and, BitVec.getLsbD_not, getLsbD_keyBit hj, decide_eq_true hj]
    rfl
  rw [hbit]
  by_cases hjk : j = k <;> simp [hjk]

/-- Settles O24: one key's bit is added to KEYS, and KEYWAKE to what it was when a wait is pending. -/
theorem keyPressSetsItsBitAndWakesAWait : Obligations.KeyPressSetsItsBitAndWakesAWait := by
  intro s k ht hk
  refine ⟨_, (step_host ht).trans (if_pos hk), fun j hj => ?_, ?_, fun hwait => ?_, fun hwait => ?_, rfl, rfl⟩
  · have hbit : (keyDown k (takeTurn s)).keys.getLsbD j = (s.keys.getLsbD j || decide (j = k)) := by
      simp [keyDown, getLsbD_keyBit hj]
    rw [hbit]
    by_cases hjk : j = k <;> simp [hjk]
  · exact Nat.mod_eq_of_lt hk
  · have hw : s.run.isWait = true := Run.isWait_iff.2 hwait
    simp [keyDown, hw]
  · have hw : s.run.isWait = false := by
      rw [← Bool.not_eq_true, Run.isWait_iff, not_exists]
      exact hwait
    simp [keyDown, hw]

/-! ## The latches, the start and the rate -/

/-- The step of an idle machine that is sent `Start` (60 R281). -/
theorem step_start {s : State} (h : s.turn = .host .start) (hr : s.run = .idle) : step s = .next (start (takeTurn s)) :=
  (step_host h).trans (if_pos hr)

/-- Settles O25: the event, the cycle boundary, `Start` and `Cleanup` each by the equation of its step. -/
theorem stopEventOnlySetsItsLatch : Obligations.StopEventOnlySetsItsLatch := by
  refine ⟨fun s ht => step_host ht, fun s ht hr hstop => ?_, fun s ht hr => ?_, fun s ht hr => ?_⟩
  · exact ⟨_, step_running_stop ht hr hstop, haltStop_haltedWith _⟩
  · exact ⟨_, step_start ht hr, rfl⟩
  · exact ⟨_, step_halted ht hr, rfl⟩

/-- Settles O26: by the equations of the three steps. -/
theorem startSaveAndRateWriteTheirRegisters : Obligations.StartSaveAndRateWriteTheirRegisters := by
  refine ⟨fun s ht hr => ⟨_, step_start ht hr, ?_⟩, fun s ht => step_host ht, fun s r ht hr => ?_⟩
  · simp [start]
  · exact (step_host ht).trans (if_pos hr)

/-- Settles O28: each event is refused by the test that allows it. -/
theorem eventsOutOfPlaceAreRefused : Obligations.EventsOutOfPlaceAreRefused := by
  refine ⟨fun s bytes hr ht => ?_, fun s b hidle hrun ht => ?_, fun s k hk ht => ?_, fun s r hr ht => ?_⟩
  · rcases ht with ht | ht | ht <;> exact (step_host ht).trans (if_neg hr)
  · exact (step_host ht).trans (if_neg (not_or.2 ⟨hidle, hrun⟩))
  · rcases ht with ht | ht <;> exact (step_host ht).trans (if_neg (Nat.not_lt.2 hk))
  · exact (step_host ht).trans (if_neg (Nat.not_le.2 hr))

/-! ## A restore of a snapshot -/

/-- A canonical memory lists addresses below 4096 only. -/
theorem Memory.read_of_ge {m : Memory} (hm : m.wf) {a : Nat} (ha : Config.memSize ≤ a) : m.read a = resetMemByte a := by
  induction m with
  | nil => rfl
  | cons c m ih =>
    obtain ⟨-, hc, -, hm'⟩ := Memory.wf_cons.1 hm
    rw [Memory.read_cons c.1 c.2, if_neg (by omega), ih hm']

/-- Writing every byte of a canonical memory over the reset content gives the memory back. -/
theorem Memory.writeAll_range_read {m : Memory} (hm : m.wf) :
    Memory.writeAll 0 ((List.range Config.memSize).map m.read) [] = m := by
  have hlen : 0 + ((List.range Config.memSize).map m.read).length ≤ Config.memSize := by simp
  refine Memory.ext (Memory.wf_writeAll hlen Memory.wf_nil) hm fun a => ?_
  rw [Memory.read_writeAll hlen Memory.wf_nil]
  rcases Nat.lt_or_ge a Config.memSize with ha | ha
  · simp [ha]
  · rw [if_neg (by simp; omega), Memory.read_nil, Memory.read_of_ge hm ha]

/-- Byte j of a row, from the left. -/
def rowByte (w : BitVec 64) (j : Nat) : Byte := w.extractLsb' (56 - 8 * j) 8

/-- The first k bytes of a row are its first 8 × k bits. -/
theorem rowOfBytes_range {w : BitVec 64} {k : Nat} (hk : k ≤ 8) :
    rowOfBytes ((List.range k).map (rowByte w)) = w >>> (64 - 8 * k) := by
  induction k with
  | zero => exact (BitVec.ushiftRight_eq_zero le_rfl).symm
  | succ k ih =>
    have hstep : rowOfBytes ((List.range (k + 1)).map (rowByte w)) =
        (rowOfBytes ((List.range k).map (rowByte w)) <<< 8) ||| (rowByte w k).setWidth 64 := by
      simp [rowOfBytes, List.range_succ]
    rw [hstep, ih (by omega)]
    refine BitVec.eq_of_getLsbD_eq fun i hi => ?_
    simp only [rowByte, BitVec.getLsbD_or, BitVec.getLsbD_shiftLeft, BitVec.getLsbD_ushiftRight,
      BitVec.getLsbD_setWidth, BitVec.getLsbD_extractLsb', hi, decide_true, Bool.true_and]
    rcases Nat.lt_or_ge i 8 with h8 | h8
    · have hbit : 56 - 8 * k + i = 64 - 8 * (k + 1) + i := by omega
      simp [h8, hbit]
    · have hbit : 64 - 8 * k + (i - 8) = 64 - 8 * (k + 1) + i := by omega
      simp [Nat.not_lt.2 h8, hbit]

/-- Eight packed bytes from byte 8 × y are row y. -/
theorem Grid.packed_row (g : Grid) {y : Nat} (hy : y < 32) :
    (g.packed.drop (8 * y)).take 8 = (List.range 8).map (rowByte (g.row y)) := by
  refine List.ext_getElem (by simp [Grid.packed]; omega) fun j h1 h2 => ?_
  have hj : j < 8 := by simpa using h2
  have hdiv : (8 * y + j) / 8 = y := by omega
  have hmod : (8 * y + j) % 8 = j := by omega
  simp [Grid.packed, Grid.packedByte, rowByte, hdiv, hmod]

theorem Grid.ofPacked_packed (g : Grid) : Grid.ofPacked g.packed = g := by
  refine Vector.ext fun y hy => ?_
  have hrow : g.row y = g[y] := by simp [Grid.row, Nat.mod_eq_of_lt hy]
  simp [Grid.ofPacked, Grid.packed_row g hy, rowOfBytes_range, hrow]

theorem ofFn_toList_getD {α : Type} {n : Nat} (v : Vector α n) (d : α) :
    Vector.ofFn (fun k : Fin n => v.toList.getD k.val d) = v := by
  ext k hk
  simp

theorem snapshot_wf {s : State} (h : s.sp ≤ 16) : (snapshot s).wf = true := by
  simp [Blob.wf, snapshot, Grid.packed, h]

/-- The step of an idle or running machine that is sent a blob (60 R289). -/
theorem step_restore {s : State} {b : Option Blob} (h : s.turn = .host (.restore b))
    (hr : s.run = .idle ∨ s.run = .running) : step s = .next (restore b (takeTurn s)) :=
  (step_host h).trans (if_pos hr)

theorem restore_of_wf {b : Blob} (h : b.wf = true) (s : State) : restore (some b) s = applyBlob b s := if_pos h

theorem restore_of_not_wf {b : Option Blob} (h : ∀ c, b = some c → c.wf = false) (s : State) :
    restore b s = emit .invalidSaveFile s := by
  cases b with
  | none => rfl
  | some c => exact if_neg (by simp [h c rfl])

/-- A snapshot applied to `t` gives its own fields and marks the repaint; its lists read back as what they were taken from. -/
theorem applyBlob_snapshot {s : State} (h : s.mem.wf) (t : State) : applyBlob (snapshot s) t =
    { t with
      v := s.v, i := s.i, dt := s.dt, st := s.st, stack := s.stack, sp := s.sp, pc := s.pc, mem := s.mem, fb := s.fb
      coll := s.coll, repaint := true } := by
  simp only [applyBlob, snapshot, ofFn_toList_getD, Memory.writeAll_range_read h, Grid.ofPacked_packed]

/-- Settles O29: registers, stack, memory and pixels each read back from their lists in the blob. -/
theorem snapshotThenRestoreGivesTheStateBack : Obligations.SnapshotThenRestoreGivesTheStateBack := by
  refine ⟨fun s t hmem hsp ht hr => ?_, fun t b ht hr hb => ?_⟩
  · rw [step_restore ht hr, restore_of_wf (snapshot_wf hsp), applyBlob_snapshot hmem]
    exact ⟨_, rfl, rfl, rfl, rfl, rfl, rfl, rfl, rfl, rfl, rfl, rfl, rfl, rfl, rfl, rfl, rfl, rfl, rfl, rfl, rfl, rfl, rfl,
      rfl⟩
  · rw [step_restore ht hr, restore_of_not_wf hb]

end Sys2Proof.Machine
